-- ==== Sys2Proof/Word.lean ====
section
/-! DEFINITION. The widths of the block: bytes, 7-bit groups, 64-bit registers, opaque source codes. -/

namespace Sys2Proof

/-- One byte; "A byte is 8 bits everywhere" (R50). -/
abbrev Byte := BitVec 8

/-- The seven value bits of a varint byte (R71). -/
abbrev Group := BitVec 7

/-- A 64-bit register: VAL, FAC, BLEN, HDR, PMISS (R20). -/
abbrev Word := BitVec 64

/-- The opaque code `e` of a source I/O error (R6 `EW`, R210). The block never interprets it. -/
abbrev ErrCode := Nat

end Sys2Proof
end

