-- ==== Sys2Proof/Config.lean ====
section
/-! DEFINITION. The implementation parameters of R6, as a record, those that follow from others or that
the spec fixes, and the value the spec leaves free. -/

namespace Sys2Proof

/-- The parameters of R6. They are fixed before the first command, and no operation changes them
(R40, R153), so State carries them as a constant field and every statement holds for all of them. -/
structure Params where
  /-- `CAP`: capacity of RBUF in bytes; OPEN. -/
  cap : Nat
  /-- `MAX_MESSAGE_SIZE`: the largest payload length accepted. -/
  maxMessageSize : Nat
  /-- `MAX_EMPTY_READS`: source reads one fill may make without a byte or an error; OPEN. -/
  maxEmptyReads : Nat
  /-- `EW`: width of the opaque code of a source error; OPEN. -/
  ew : Nat
  deriving DecidableEq, Repr

/-- The constraints R6 puts on the parameters. -/
abbrev Params.Legal (p : Params) : Prop :=
  1 ≤ p.cap ∧ 1 ≤ p.maxEmptyReads ∧ p.maxMessageSize < 2 ^ 64

/-- From `k` upwards, at most `fuel` further steps: the smallest `k` with `n < 2^k`. -/
def widthFrom (fuel k n : Nat) : Nat :=
  match fuel with
  | 0 => k
  | fuel + 1 => if n < 2 ^ k then k else widthFrom fuel (k + 1) n

/-- `ceil(log2(n+1))`, the width that holds every number from 0 to `n`: the smallest `k` with
`n < 2^k`. -/
def widthOf (n : Nat) : Nat := widthFrom n 0 n

/-- `IDXW = ceil(log2(CAP+1))`, the width of `R` and `W` (R6, R26). -/
def Params.idxw (p : Params) : Nat := widthOf p.cap

/-- `ceil(log2(MAX_EMPTY_READS+1))`, the width of `EMPTIES` (R20). -/
def Params.emptiesw (p : Params) : Nat := widthOf p.maxEmptyReads

/-- What byte `i` of RBUF holds, after the `n`-th RESET, until something writes it: "`RBUF` may hold any
bytes after reset" (R241, 93 U11). A free value: it has no body, and nothing constrains it (log 7). -/
opaque Config.unspecifiedByte (n i : Nat) : Byte

/-- `QDEPTH`, which R6 fixes at 1. -/
def Config.qdepth : Nat := 1

/-- The parameters State.reset starts from. DESIGN CHOICE (CAP, MAX_EMPTY_READS, EW: log 4) and
PRESUMED (8 MiB in bytes: log 5). No statement rests on a value chosen here. -/
def Config.defaults : Params :=
  { cap := 16, maxMessageSize := 8388608, maxEmptyReads := 16, ew := 32 }

end Sys2Proof
end

