-- ==== Sys2Proof/Syntax.lean ====
section
/-! DEFINITION. The 20 operations of R70 (spec/opcode_table.json), and the operands they carry. -/

namespace Sys2Proof

/-- The parser phase (R27). Code 3 is never produced and has no constructor (93 U9). -/
inductive Phase where
  | awaitLen
  | awaitHeader
  | awaitPayload
  deriving DecidableEq, Repr

/-- A source response `(n, data, st, e)` in format SR (R84). `n` is the length of `data`, so a
count that disagrees with the data, or a negative one, cannot be written down (log 14). -/
structure SrcResp where
  data : List Byte
  /-- 0 OK, 1 EOF, 2 IOERR, 3 reserved (R84). -/
  st : BitVec 2
  /-- meaningful when `st = 2` -/
  e : ErrCode
  deriving DecidableEq, Repr

/-- The byte count `n` of a response (R84). -/
def SrcResp.n (x : SrcResp) : Nat := x.data.length

/-- The operations of R70, one constructor per row of the opcode table. -/
inductive Instr where
  /-- `LEN.C`: continuation byte of a length varint (R121). -/
  | lenC (g : Group)
  /-- `LEN.T`: terminator byte of a length varint (R122). -/
  | lenT (g : Group)
  /-- `HDR.C`: continuation byte of a header varint (R123). -/
  | hdrC (g : Group)
  /-- `HDR.T`: terminator byte of a header varint (R124). -/
  | hdrT (g : Group)
  /-- `PAY.B`: a burst of payload bytes, `d` the first of them (R125, log 12). -/
  | payB (d : Byte)
  /-- `VRESET`: reset the varint accumulator (R106). -/
  | vreset
  /-- `EMIT`: complete a message and queue it (R126). -/
  | emit
  /-- `DELIVER`: pop the queue, compact, return the message (R143). -/
  | deliver
  /-- `COMPACT`: move the unread bytes to offset 0 (R144). -/
  | compact
  /-- `SURFACE`: take the error out of the slot and return it (R146). -/
  | surface
  /-- `STALLCHK`: the stall guard (R147). -/
  | stallchk
  /-- `CAPCHK`: the capacity check (R148). -/
  | capchk
  /-- `FILL`: compact, then start reading the source (R170). -/
  | fill
  /-- `READ_NEXT`: the host asks for a message or an error (R140). -/
  | readNext
  /-- `RESET`: the host returns the block to the reset state (R153). -/
  | reset
  /-- `SRC.DATA`: bytes, no error (R173). -/
  | srcData (data : List Byte)
  /-- `SRC.EMPTY`: no byte, no error (R174). -/
  | srcEmpty
  /-- `SRC.EOF`: end of stream, with any number of bytes (R175). -/
  | srcEof (data : List Byte)
  /-- `SRC.ERR`: I/O error `e`, with any number of bytes (R176). -/
  | srcErr (data : List Byte) (e : ErrCode)
  /-- `SRC.BAD`: a response outside the contract (R177). -/
  | srcBad (x : SrcResp)
  deriving DecidableEq, Repr

end Sys2Proof
end

