-- ==== Sys2Proof/Machine/State.lean ====
section
/-! DEFINITION. The state of the block (10_state.md), the two interfaces as data, the reasons a
step can stop, and the state after reset. -/

namespace Sys2Proof.Machine

/-- The seven error kinds (R200). Code 0, "no error", is the absence of one. -/
inductive ErrKind where
  | endOfStream
  | unexpectedEndOfStream
  | shortBuffer
  | noProgress
  | malformed
  | oversize
  | sourceError
  deriving DecidableEq, Repr

/-- The cause of a panic, `PCAUSE` (R35): 0 and 1. -/
inductive PanicCause where
  | full
  | badRead
  deriving DecidableEq, Repr

/-- The three values of `STATUS` (R35). -/
inductive Status where
  | idle
  | busy
  | fault
  deriving DecidableEq, Repr

/-- An entry of `MSGQ` (R34), and the content of a message response (R85). -/
structure Message where
  id : BitVec 60
  channel : BitVec 4
  data : List Byte
  deriving DecidableEq, Repr

/-- A host response (R85): a message, or an error kind with `e` when it is SourceError. -/
inductive Response where
  | message (m : Message)
  | error (kind : ErrKind) (e : Option ErrCode)
  deriving DecidableEq, Repr

/-- Where a running READ_NEXT stands in the loop of R141 and in the read loop of R170 (log 10). -/
inductive Loc where
  /-- the tests L1, L2, L3, and L4 if none of them decides -/
  | top
  /-- L5 -/
  | capchk
  /-- L6 -/
  | fill
  /-- inside FILL, a SrcRead outstanding -/
  | srcWait
  deriving DecidableEq, Repr

/-- A command of the host (R83). With `whileBusy` the host does not wait until the block can accept
it: a concurrent caller, whose command is refused (R250, log 16). -/
structure HostEvent where
  cmd : BitVec 1
  whileBusy : Bool
  deriving DecidableEq, Repr

/-- A byte store: the bytes that have a value, by rising address. -/
abbrev Memory := List Host.Cell

/-- The state: the members of R20, the parameters of R6, and five fields of the model's own. -/
structure State where
  /-- the parameters (R6); no operation changes them -/
  params : Params
  /-- `VAL` (R21) -/
  val : Word
  /-- `FAC` (R22) -/
  fac : Word
  /-- `CNT` (R23) -/
  cnt : BitVec 4
  /-- `BLEN` (R24) -/
  blen : Word
  /-- `HDR` (R25) -/
  hdr : Word
  /-- `PMISS` (R28) -/
  pmiss : Word
  /-- `R` (R26), a number of `IDXW` bits (log 13) -/
  r : Nat
  /-- `W` (R26), a number of `IDXW` bits (log 13) -/
  w : Nat
  /-- `PHASE` (R27) -/
  phase : Phase
  /-- `ERRK` (R29); none is code 0, the empty slot -/
  errk : Option ErrKind
  /-- `ERRE` (R29) -/
  erre : ErrCode
  /-- `DEAD` (R30) -/
  dead : Bool
  /-- `EMPTIES` (R31), a number of `ceil(log2(MAX_EMPTY_READS+1))` bits (R20, log 13) -/
  empties : Nat
  /-- `RBUF` (R32): the bytes written since reset; the others are unspecified (log 7) -/
  rbuf : Memory
  /-- `PAY` (R33): the bytes copied so far -/
  pay : List Byte
  /-- `MSGQ` (R34), head first -/
  msgq : List Message
  /-- `STATUS` (R35) -/
  status : Status
  /-- `PCAUSE` (R35); meaningful in FAULT only (R241, log 9) -/
  pcause : PanicCause
  /-- the model's own: the place in the drive loop (log 10) -/
  loc : Loc
  /-- the model's own: how many RESET commands have been executed, the counter behind the free value of
  the bytes of RBUF that nothing has written since the last (log 7) -/
  resets : Nat
  /-- the model's own: commands the host has yet to present, next first (log 2) -/
  hostq : List HostEvent
  /-- the model's own: answers the source has yet to give, next first (log 2) -/
  srcq : List SrcResp
  /-- the model's own: responses given to the host, oldest first (log 2) -/
  resps : List Response
  deriving DecidableEq, Repr

/-- Why a step stops. No run from reset reaches one of them. -/
inductive Fault where
  /-- Raised by the fetch of a stream byte and by PAY.B at an index that RBUF does not have (R32, R50;
  log 23). Safe: the model stops. -/
  | outsideBuffer
  /-- Raised by DELIVER with MSGQ empty, where there is nothing to pop (R143; log 18). Safe. -/
  | emptyQueue
  /-- Raised by SURFACE with the slot empty, where there is no kind to raise (R146; log 18). Safe. -/
  | emptySlot
  deriving DecidableEq, Repr

/-- Why an instruction has no meaning. -/
inductive Refusal where
  /-- Raised by exec's arm of an instruction that has no meaning yet; none has that arm. Safe. -/
  | notModelled (mnemonic : String)
  deriving DecidableEq, Repr

/-- The machine right after reset (R40, R241). ERRE and PCAUSE are 0 by DESIGN CHOICE (log 6, log 9), the
parameters are log 4 and log 5, every byte of RBUF is unspecified (log 7), and no input is waiting
(log 2). -/
def State.reset : State :=
  { params := Config.defaults
    val := 0, fac := 1, cnt := 0
    blen := 0, hdr := 0, pmiss := 0
    r := 0, w := 0
    phase := .awaitLen
    errk := none, erre := 0
    dead := false
    empties := 0
    rbuf := [], pay := [], msgq := []
    status := .idle, pcause := .full
    loc := .top
    resets := 0
    hostq := [], srcq := [], resps := [] }

end Sys2Proof.Machine
end

