-- ==== Sys2Proof/Machine/Ops.lean ====
section
/-! DEFINITION. The operations over the byte stores, the moves of R54, and the three ways a command
ends: a response (R85), `raise` (R215), `panic` (R218). -/

namespace Sys2Proof.Machine

/-- What an address that is not listed reads as: nothing has written it since reset (R32, R241). -/
def Memory.unlisted : Option Byte := none

/-- The byte written at `i`, if one has been. -/
def Memory.read (m : Memory) (i : Nat) : Option Byte :=
  match m with
  | [] => Memory.unlisted
  | (a, b) :: rest => if a = i then some b else Memory.read rest i

/-- Give the byte at `i` the value `b`. -/
def Memory.put (m : Memory) (i : Nat) (b : Byte) : Memory :=
  match m with
  | [] => [(i, b)]
  | (a, c) :: rest =>
    if i < a then (i, b) :: (a, c) :: rest
    else if i = a then (i, b) :: rest
    else (a, c) :: Memory.put rest i b

/-- The value of the byte at `i` after the `n`-th RESET: the one written there, else a free value (R241,
93 U11; log 7). -/
def Memory.byteAt (m : Memory) (n i : Nat) : Byte :=
  match Memory.read m i with
  | some b => b
  | none => Config.unspecifiedByte n i

/-- `MemWrite(S, a, n, v)` (R8): the bytes of `v` from `a` on, in ascending order. -/
def Memory.write (m : Memory) (a : Nat) (v : List Byte) : Memory :=
  match v with
  | [] => m
  | b :: rest => Memory.write (Memory.put m a b) (a + 1) rest

/-- `turns` turns of the loop of COMPACT from its `i`-th on: `RBUF[i] <- RBUF[R + i]`, ascending
(R56, R144). -/
def Memory.moveDown (m : Memory) (n r i turns : Nat) : Memory :=
  match turns with
  | 0 => m
  | turns + 1 =>
    Memory.moveDown (Memory.put m i (Memory.byteAt m n (r + i))) n r (i + 1) turns

/-- The canonical form: addresses strictly rising. No listed cell can read as an unlisted one. -/
def Memory.wf (m : Memory) : Bool :=
  match m with
  | [] => true
  | [_] => true
  | (a, _) :: (a', b) :: rest => decide (a < a') && Memory.wf ((a', b) :: rest)

/-- The value of `RBUF[i]` (R8, R32). -/
def State.byteAt (s : State) (i : Nat) : Byte := Memory.byteAt s.rbuf s.resets i

/-- A read of `RBUF[i]`; RBUF has no byte at `CAP` or above (R32, R50). -/
def State.readByte (s : State) (i : Nat) : Except Fault Byte :=
  if s.params.cap ≤ i then .error .outsideBuffer else .ok (s.byteAt i)

/-- `MemRead(RBUF, a, n)` (R8). -/
def State.readBytes (s : State) (a n : Nat) : Except Fault (List Byte) :=
  match n with
  | 0 => .ok []
  | n + 1 =>
    match s.readByte a with
    | .error f => .error f
    | .ok b =>
      match s.readBytes (a + 1) n with
      | .error f => .error f
      | .ok bs => .ok (b :: bs)

/-- What `R` or `W` holds once `v` is written to it: `v mod 2^IDXW` (R7, R26). -/
def State.index (s : State) (v : Nat) : Nat := v % 2 ^ s.params.idxw

/-- What `EMPTIES` holds once `v` is written to it: `v` modulo two to its width (R7, R20). -/
def State.emptyCount (s : State) (v : Nat) : Nat := v % 2 ^ s.params.emptiesw

/-- A source response's bytes go to `RBUF[W ..]`, and W advances (R54, R173). -/
def State.receive (s : State) (data : List Byte) : State :=
  { s with rbuf := Memory.write s.rbuf s.w data, w := s.index (s.w + data.length) }

/-- COMPACT: the unread bytes move to offset 0 (R144). -/
def State.compacted (s : State) : State :=
  { s with
    rbuf := Memory.moveDown s.rbuf s.resets s.r 0 (s.w - s.r)
    w := s.index (s.w - s.r), r := 0 }

/-- The running READ_NEXT ends with a response, and the block waits for a command (R140). -/
def State.respond (s : State) (x : Response) : State :=
  { s with status := .idle, loc := .top, resps := s.resps ++ [x] }

/-- `raise K`, the one error mechanism (R215): DEAD is set, the command ends with `Error(K)`, STATUS
is IDLE, and nothing else is written. There is no handler and no return (R213, R216). -/
def State.raise (s : State) (k : ErrKind) (e : Option ErrCode) : State :=
  { s.respond (.error k e) with dead := true }

/-- `panic(P)` (R218): STATUS is FAULT with its cause, no response, no other register written. -/
def State.panic (s : State) (c : PanicCause) : State :=
  { s with status := .fault, pcause := c, loc := .top }

/-- VRESET (R106). -/
def State.accReset (s : State) : State := { s with val := 0, fac := 1, cnt := 0 }

/-- Every register at its reset value (R40, R153), and every byte of RBUF unspecified anew (R241; log 8).
The parameters, what the host and the source have yet to say, and the responses the host already holds
are not registers. -/
def State.cleared (s : State) : State :=
  { State.reset with
    params := s.params, resets := s.resets + 1
    hostq := s.hostq, srcq := s.srcq, resps := s.resps }

end Sys2Proof.Machine
end

