-- ==== Sys2Proof/Machine/Operands.lean ====
section
/-! DEFINITION. Operand assembly (R78): the value of a group, the fields of a header, the length of
a burst, the room offered to the source. -/

namespace Sys2Proof.Machine

/-- A 7-bit group as a 64-bit number: zero-extended, never sign-extended (R78). -/
def groupVal (g : Group) : Word := g.setWidth 64

/-- What a varint byte adds to VAL: `(b & 0x7F) * FAC mod 2^64` (R101, R105). -/
def contribution (g : Group) (fac : Word) : Word := groupVal g * fac

/-- `id = header >> 4`, 60 bits (R73, R78). -/
def headerId (h : Word) : BitVec 60 := h.extractLsb' 4 60

/-- `channel = header & 0xF`, 4 bits (R73, R78). -/
def headerChannel (h : Word) : BitVec 4 := h.extractLsb' 0 4

/-- `k = min(PMISS, W - R)`, the bytes one PAY.B copies (R125). -/
def State.burstLen (s : State) : Nat := min s.pmiss.toNat (s.w - s.r)

/-- The bytes one PAY.B copies: its own byte `d`, which stands at `RBUF[R]`, and those behind it
(R125, log 12). -/
def State.burst (s : State) (d : Byte) : Except Fault (List Byte) :=
  match s.burstLen with
  | 0 => .ok []
  | k + 1 =>
    match s.readBytes (s.r + 1) k with
    | .error f => .error f
    | .ok bs => .ok (d :: bs)

/-- `N = CAP - W`, the room SrcRead offers (R171). -/
def State.room (s : State) : Nat := s.params.cap - s.w

/-- What stands on the source port: the room offered, while a SrcRead is outstanding (R171). -/
def State.offer (s : State) : Option Nat :=
  if s.status = .busy ∧ s.loc = .srcWait then some s.room else none

/-- The code of a source error as ERRE holds it, `EW` bits (R7, R29; log 15). -/
def State.errCode (s : State) (e : ErrCode) : ErrCode := e % 2 ^ s.params.ew

end Sys2Proof.Machine
end

