-- ==== Sys2Proof/Machine/Flags.lean ====
section
/-! DEFINITION. The predicates of R36 and R205, and the numeric codes of R27, R35, R85, R200. -/

namespace Sys2Proof.Machine

/-- `in_varint` (R36). -/
def State.inVarint (s : State) : Bool := decide (s.cnt ≠ 0)

/-- `mid_frame = (PHASE != AWAIT_LEN) or (CNT > 0)` (R36, R205). -/
def State.midFrame (s : State) : Bool := decide (s.phase ≠ .awaitLen) || s.inVarint

/-- `buffered = W - R` (R36). -/
def State.buffered (s : State) : Nat := s.w - s.r

/-- `q_nonempty` (R36). -/
def State.qNonempty (s : State) : Bool := !s.msgq.isEmpty

/-- `err_pending = (ERRK != 0)` (R36). -/
def State.errPending (s : State) : Bool := s.errk.isSome

/-- The varint in progress has had eleven bytes: `CNT = 11` (R104). -/
def State.varintOverrun (s : State) : Bool := decide (s.cnt = 11)

/-- `W + PMISS > CAP` in AWAIT_PAYLOAD, the sum without wrap-around (R148). -/
def State.tooShort (s : State) : Bool :=
  decide (s.phase = .awaitPayload) && decide (s.params.cap < s.w + s.pmiss.toNat)

/-- The code of a phase (R27). -/
def phaseCode (p : Phase) : BitVec 2 :=
  match p with
  | .awaitLen => 0
  | .awaitHeader => 1
  | .awaitPayload => 2

/-- The code of an error kind (R200). -/
def errCodeOf (k : ErrKind) : BitVec 3 :=
  match k with
  | .endOfStream => 1
  | .unexpectedEndOfStream => 2
  | .shortBuffer => 3
  | .noProgress => 4
  | .malformed => 5
  | .oversize => 6
  | .sourceError => 7

/-- ERRK as its three bits: code 0 is the empty slot (R29, R200). -/
def State.errkCode (s : State) : BitVec 3 :=
  match s.errk with
  | none => 0
  | some k => errCodeOf k

/-- PCAUSE as its bit (R35). -/
def pcauseCode (c : PanicCause) : BitVec 1 :=
  match c with
  | .full => 0
  | .badRead => 1

/-- The tag of a response in format RS (R85). -/
def responseTag (x : Response) : BitVec 1 :=
  match x with
  | .message _ => 0
  | .error _ _ => 1

/-- The `len` field of a message response: the payload length (R85). -/
def Message.len (m : Message) : Nat := m.data.length

end Sys2Proof.Machine
end

