-- ==== Sys2Proof/Machine/Command.lean ====
section
/-! DEFINITION. The host commands (42_drive_loop.md): READ_NEXT and RESET. -/

namespace Sys2Proof.Machine

/-- READ_NEXT (R140) up to the first test of its loop: `L0` answers at once if DEAD (R142), else the
block is BUSY and its loop stands at L1. Accepted only in IDLE; elsewhere it has no effect and no
response (R218, R219, R250; log 16). -/
def execReadNext (s : State) : Host.Outcome State Fault Refusal :=
  match s.status with
  | .idle =>
    if s.dead then .next (s.respond (.error .endOfStream none))
    else .next { s with status := .busy, loc := .top }
  | .busy => .next s
  | .fault => .next s

/-- RESET (R153): accepted in IDLE and in FAULT, without effect while a READ_NEXT runs. -/
def execReset (s : State) : Host.Outcome State Fault Refusal :=
  match s.status with
  | .idle => .next s.cleared
  | .busy => .next s
  | .fault => .next s.cleared

end Sys2Proof.Machine
end

