-- ==== Sys2Proof/Machine/Varint.lean ====
section
/-! DEFINITION. The varint decoder (40_varint.md): the accumulate step, the two byte steps that the
frame parser wraps, and VRESET. -/

namespace Sys2Proof.Machine

/-- `vacc(b)` (R101). -/
def State.vacc (s : State) (g : Group) : State :=
  { s with val := s.val + contribution g s.fac, cnt := s.cnt + 1 }

/-- `VB.C` (R102): accumulate, weigh the next group, consume the byte; the eleventh such byte of a
varint is malformed (R104). -/
def State.vbC (s : State) (g : Group) : State :=
  let s1 := { s.vacc g with fac := s.fac * 128, r := s.index (s.r + 1) }
  if s1.varintOverrun then s1.raise .malformed none else s1

/-- `VB.T` (R103): accumulate and consume the byte. VAL and CNT are then its result `(v, c)`. -/
def State.vbT (s : State) (g : Group) : State :=
  { s.vacc g with r := s.index (s.r + 1) }

/-- VRESET (R106). -/
def execVreset (s : State) : Host.Outcome State Fault Refusal := .next s.accReset

end Sys2Proof.Machine
end

