-- ==== Sys2Proof/Machine/Frame.lean ====
section
/-! DEFINITION. The frame parser (41_frame_parser.md): LEN.C, LEN.T, HDR.C, HDR.T, PAY.B, EMIT. -/

namespace Sys2Proof.Machine

/-- The message EMIT queues: `id = HDR >> 4`, `channel = HDR & 0xF`, the payload (R126). -/
def State.message (s : State) : Message :=
  { id := headerId s.hdr, channel := headerChannel s.hdr, data := s.pay }

/-- EMIT (R126): queue the message and return every parser register to its reset value. -/
def State.emitted (s : State) : State :=
  { s.accReset with
    msgq := s.msgq ++ [s.message]
    pay := [], blen := 0, hdr := 0, pmiss := 0
    phase := .awaitLen }

/-- EMIT if the payload is complete, the last line of HDR.T and of PAY.B (R124, R125). -/
def State.emitIfComplete (s : State) : State :=
  if s.pmiss = 0 then s.emitted else s

/-- HDR.T after its two tests: the accumulator is reset and the payload of length `len` begins
(R124). -/
def State.beginPayload (s : State) (len : Word) : State :=
  { s.accReset with blen := len, pmiss := len, pay := [], phase := .awaitPayload }

/-- LEN.C (R121). -/
def execLenC (g : Group) (s : State) : Host.Outcome State Fault Refusal := .next (s.vbC g)

/-- LEN.T (R122): a value of 0 is a zero-length frame and leaves the phase AWAIT_LEN. -/
def execLenT (g : Group) (s : State) : Host.Outcome State Fault Refusal :=
  let s1 := s.vbT g
  .next { s1.accReset with
    blen := s1.val
    phase := if s1.val = 0 then .awaitLen else .awaitHeader }

/-- HDR.C (R123). -/
def execHdrC (g : Group) (s : State) : Host.Outcome State Fault Refusal := .next (s.vbC g)

/-- HDR.T (R124): `Malformed` if the body is shorter than its header varint, tested before the
subtraction; `Oversize` if the payload length exceeds the maximum; else the payload begins, and an
empty one is emitted at once. -/
def execHdrT (g : Group) (s : State) : Host.Outcome State Fault Refusal :=
  let s1 := s.vbT g
  let s2 := { s1 with hdr := s1.val }
  let c : Word := s1.cnt.setWidth 64
  if s2.blen < c then .next (s2.raise .malformed none)
  else
    let len := s2.blen - c
    if s2.params.maxMessageSize < len.toNat then
      .next ({ s2 with blen := len }.raise .oversize none)
    else .next (s2.beginPayload len).emitIfComplete

/-- PAY.B (R125): one burst, and EMIT when it holds the last payload byte. -/
def execPayB (d : Byte) (s : State) : Host.Outcome State Fault Refusal :=
  match s.burst d with
  | .error f => .fault f
  | .ok bs =>
    .next ({ s with
      pay := s.pay ++ bs
      r := s.index (s.r + s.burstLen)
      pmiss := s.pmiss - BitVec.ofNat 64 s.burstLen }).emitIfComplete

/-- EMIT (R126). -/
def execEmit (s : State) : Host.Outcome State Fault Refusal := .next s.emitted

end Sys2Proof.Machine
end

