-- ==== Sys2Proof/Machine/Loop.lean ====
section
/-! DEFINITION. The micro-operations of the drive loop (42_drive_loop.md): DELIVER, COMPACT, SURFACE,
STALLCHK, CAPCHK. -/

namespace Sys2Proof.Machine

/-- DELIVER (R143): pop the head of the queue, compact, return the message. -/
def execDeliver (s : State) : Host.Outcome State Fault Refusal :=
  match s.msgq with
  | [] => .fault .emptyQueue
  | m :: rest => .next ({ s with msgq := rest }.compacted.respond (.message m))

/-- COMPACT (R144). -/
def execCompact (s : State) : Host.Outcome State Fault Refusal := .next s.compacted

/-- The kind SURFACE reports: an end of stream in mid-frame is a truncation (R146, R205). -/
def State.surfacedKind (s : State) (k : ErrKind) : ErrKind :=
  if k = .endOfStream ∧ s.midFrame then .unexpectedEndOfStream else k

/-- `e` goes with SourceError and with no other kind (R146, R200). -/
def State.surfacedCode (s : State) (k : ErrKind) : Option ErrCode :=
  if k = .sourceError then some s.erre else none

/-- SURFACE (R146): clear the slot and raise what it held. -/
def execSurface (s : State) : Host.Outcome State Fault Refusal :=
  match s.errk with
  | none => .fault .emptySlot
  | some k => .next ({ s with errk := none }.raise (s.surfacedKind k) (s.surfacedCode k))

/-- STALLCHK (R147): it never raises; the loop goes on to CAPCHK (log 11). -/
def execStallchk (s : State) : Host.Outcome State Fault Refusal := .next { s with loc := .capchk }

/-- CAPCHK (R148): `ShortBuffer` if the rest of the payload cannot fit; else the loop goes on to
FILL. -/
def execCapchk (s : State) : Host.Outcome State Fault Refusal :=
  if s.tooShort then .next (s.raise .shortBuffer none) else .next { s with loc := .fill }

end Sys2Proof.Machine
end

