-- ==== Sys2Proof/Machine/Source.lean ====
section
/-! DEFINITION. The fill protocol and the source responses (43_fill_adapter.md): FILL, SRC.DATA,
SRC.EMPTY, SRC.EOF, SRC.ERR, SRC.BAD. -/

namespace Sys2Proof.Machine

/-- FILL returns to the drive loop (R170). -/
def State.fillReturn (s : State) : State := { s with loc := .top }

/-- `F4`: the slot takes `NoProgress`, and FILL returns (R170, R178). -/
def State.exhausted (s : State) : State := { s with errk := some .noProgress }.fillReturn

/-- The test of `F3`: while EMPTIES < MAX_EMPTY_READS another SrcRead is issued (R170). -/
def State.readOrGiveUp (s : State) : State :=
  if s.empties < s.params.maxEmptyReads then { s with loc := .srcWait } else s.exhausted

/-- `F1`: compact if `R > 0` (R170). -/
def State.rebased (s : State) : State := if 0 < s.r then s.compacted else s

/-- FILL up to its first SrcRead (R170 F1 to F3); the answers are the operations SRC.*. -/
def execFill (s : State) : Host.Outcome State Fault Refusal :=
  let s1 := s.rebased
  if s1.params.cap ≤ s1.w then .next (s1.panic .full)
  else .next { s1 with empties := 0 }.readOrGiveUp

/-- One turn of the read loop of R170 on the answer `(n, data, st, e)`, in its order of tests. -/
def State.answered (s : State) (x : SrcResp) : State :=
  if x.st = 3 ∨ s.params.cap < s.w + x.n then s.panic .badRead
  else
    let s1 := s.receive x.data
    if x.st = 1 then { s1 with errk := some .endOfStream }.fillReturn
    else if x.st = 2 then
      { s1 with errk := some .sourceError, erre := s.errCode x.e }.fillReturn
    else if 0 < x.n then s1.fillReturn
    else { s1 with empties := s1.emptyCount (s1.empties + 1) }.readOrGiveUp

/-- SRC.DATA (R173). -/
def execSrcData (data : List Byte) (s : State) : Host.Outcome State Fault Refusal :=
  .next (s.answered { data := data, st := 0, e := 0 })

/-- SRC.EMPTY (R174); the last one the bound allows ends the fill (R178). -/
def execSrcEmpty (s : State) : Host.Outcome State Fault Refusal :=
  .next (s.answered { data := [], st := 0, e := 0 })

/-- SRC.EOF (R175). -/
def execSrcEof (data : List Byte) (s : State) : Host.Outcome State Fault Refusal :=
  .next (s.answered { data := data, st := 1, e := 0 })

/-- SRC.ERR (R176). -/
def execSrcErr (data : List Byte) (e : ErrCode) (s : State) : Host.Outcome State Fault Refusal :=
  .next (s.answered { data := data, st := 2, e := e })

/-- SRC.BAD (R177): a panic whatever the response holds; nothing of it is stored (R212 (f)). -/
def execSrcBad (_x : SrcResp) (s : State) : Host.Outcome State Fault Refusal :=
  .next (s.panic .badRead)

end Sys2Proof.Machine
end

