-- ==== Sys2Proof/Machine/Dispatch.lean ====
section
/-! DEFINITION. The meaning of every operation of R70, one arm each. -/

namespace Sys2Proof.Machine

def exec (i : Instr) (s : State) : Host.Outcome State Fault Refusal :=
  match i with
  | .lenC g => Sys2Proof.Machine.execLenC g s
  | .lenT g => Sys2Proof.Machine.execLenT g s
  | .hdrC g => Sys2Proof.Machine.execHdrC g s
  | .hdrT g => Sys2Proof.Machine.execHdrT g s
  | .payB d => Sys2Proof.Machine.execPayB d s
  | .vreset => Sys2Proof.Machine.execVreset s
  | .emit => Sys2Proof.Machine.execEmit s
  | .deliver => Sys2Proof.Machine.execDeliver s
  | .compact => Sys2Proof.Machine.execCompact s
  | .surface => Sys2Proof.Machine.execSurface s
  | .stallchk => Sys2Proof.Machine.execStallchk s
  | .capchk => Sys2Proof.Machine.execCapchk s
  | .fill => Sys2Proof.Machine.execFill s
  | .readNext => Sys2Proof.Machine.execReadNext s
  | .reset => Sys2Proof.Machine.execReset s
  | .srcData data => Sys2Proof.Machine.execSrcData data s
  | .srcEmpty => Sys2Proof.Machine.execSrcEmpty s
  | .srcEof data => Sys2Proof.Machine.execSrcEof data s
  | .srcErr data e => Sys2Proof.Machine.execSrcErr data e s
  | .srcBad x => Sys2Proof.Machine.execSrcBad x s

end Sys2Proof.Machine
end

