-- ==== Sys2Proof/WellFormed.lean ====
section
/-! DEFINITION. Which terms of Instr stand for an operation of the table: the selection column of
format SR (R84) and the width of `e` (R6). -/

namespace Sys2Proof

/-- `i` is an operation the block can meet while it offers `room` bytes to a source whose error
codes have `ew` bits. Every stream byte, micro-operation and command is well formed (R14). -/
def Instr.wellFormed (room ew : Nat) (i : Instr) : Bool :=
  match i with
  | .lenC _ => true
  | .lenT _ => true
  | .hdrC _ => true
  | .hdrT _ => true
  | .payB _ => true
  | .vreset => true
  | .emit => true
  | .deliver => true
  | .compact => true
  | .surface => true
  | .stallchk => true
  | .capchk => true
  | .fill => true
  | .readNext => true
  | .reset => true
  | .srcData data => decide (0 < data.length) && decide (data.length ≤ room)
  | .srcEmpty => true
  | .srcEof data => decide (data.length ≤ room)
  | .srcErr data e => decide (data.length ≤ room) && decide (e < 2 ^ ew)
  | .srcBad x => decide (x.st = 3 ∨ room < x.n)

/-- The phase an SB row of the opcode table names (R76); the other classes are met in any phase. -/
def Instr.inPhase (p : Phase) (i : Instr) : Bool :=
  match i with
  | .lenC _ => decide (p = .awaitLen)
  | .lenT _ => decide (p = .awaitLen)
  | .hdrC _ => decide (p = .awaitHeader)
  | .hdrT _ => decide (p = .awaitHeader)
  | .payB _ => decide (p = .awaitPayload)
  | .vreset => true
  | .emit => true
  | .deliver => true
  | .compact => true
  | .surface => true
  | .stallchk => true
  | .capchk => true
  | .fill => true
  | .readNext => true
  | .reset => true
  | .srcData _ => true
  | .srcEmpty => true
  | .srcEof _ => true
  | .srcErr _ _ => true
  | .srcBad _ => true

end Sys2Proof
end

