-- ==== Sys2Proof/Decode.lean ====
section
/-! DEFINITION. The opcode map (R71, R76, R83, R84): from what stands on the three inputs of the
block to an operation, and back. No byte, command bit or response is refused (R14, R76, R82). -/

namespace Sys2Proof

/-- What the block decodes: a stream byte (format SB), a host command (format HC), or a source
response (format SR). Micro-operations have no encoding (R70). -/
inductive Code where
  | stream (b : Byte)
  | command (c : BitVec 1)
  | response (x : SrcResp)
  deriving DecidableEq, Repr

/-- Why raw bits are not an encoded operation. -/
inductive Reject where
  /-- There is no byte to decode. -/
  | noByte
  /-- The spec has no format of this many bits: HC has 1, the status of SR 2, SB 8. -/
  | noSuchFormat (nbits : Nat)
  deriving DecidableEq, Repr

/-- The continuation flag `c`, bit 7 of a stream byte (R71). -/
def flagOf (b : Byte) : Bool := b.getLsbD 7

/-- The value group `g`, bits 6:0 of a stream byte (R71). -/
def groupOf (b : Byte) : Group := b.extractLsb' 0 7

/-- The stream byte with flag `c` and group `g` (R71). -/
def byteOf (c : Bool) (g : Group) : Byte := BitVec.ofBool c ++ g

/-- Which operation a stream byte performs: PHASE and bit 7 decide (R76). -/
def decodeByte (p : Phase) (b : Byte) : Instr :=
  match p with
  | .awaitLen => if flagOf b then .lenC (groupOf b) else .lenT (groupOf b)
  | .awaitHeader => if flagOf b then .hdrC (groupOf b) else .hdrT (groupOf b)
  | .awaitPayload => .payB b

/-- A host command (R83). -/
def decodeCommand (c : BitVec 1) : Instr := if c = 0 then .readNext else .reset

/-- The selection of R84, in its order, `room` being the offered `N`. -/
def decodeResponse (room : Nat) (x : SrcResp) : Instr :=
  if x.st = 3 ∨ room < x.n then .srcBad x
  else if x.st = 1 then .srcEof x.data
  else if x.st = 2 then .srcErr x.data x.e
  else if x.n = 0 then .srcEmpty
  else .srcData x.data

/-- The decoder, in the phase and with the offered room that select between equal words. -/
def decode (p : Phase) (room : Nat) (c : Code) : Instr :=
  match c with
  | .stream b => decodeByte p b
  | .command k => decodeCommand k
  | .response x => decodeResponse room x

/-- The first operation of a byte string, and the bytes behind it; total on any bytes. -/
def decodeStream (p : Phase) (bytes : List Byte) : Except Reject (Instr × List Byte) :=
  match bytes with
  | [] => .error .noByte
  | b :: rest => .ok (decodeByte p b, rest)

/-- Raw bits of one of the table's formats. The table gives format SR only its two status bits,
so the operand words `n`, `data`, `e` are zero there. -/
def codeOfBits (nbits w : Nat) : Except Reject Code :=
  if nbits = 8 then .ok (.stream (BitVec.ofNat 8 w))
  else if nbits = 1 then .ok (.command (BitVec.ofNat 1 w))
  else if nbits = 2 then .ok (.response { data := [], st := BitVec.ofNat 2 w, e := 0 })
  else .error (.noSuchFormat nbits)

/-- The opcode table's words, read by the decoder. A word alone does not name an SB row: PHASE does
(R76), and here it is AWAIT_LEN, the phase of the first byte of a stream (R75; log 17). -/
def decodeTableWord (nbits w : Nat) : Option Instr :=
  match codeOfBits nbits w with
  | .ok c => some (decode .awaitLen 0 c)
  | .error _ => none

/-- The words of an operation; none for a micro-operation, which has no encoding (R70). -/
def encode (i : Instr) : Option Code :=
  match i with
  | .lenC g => some (.stream (byteOf true g))
  | .lenT g => some (.stream (byteOf false g))
  | .hdrC g => some (.stream (byteOf true g))
  | .hdrT g => some (.stream (byteOf false g))
  | .payB d => some (.stream d)
  | .vreset => none
  | .emit => none
  | .deliver => none
  | .compact => none
  | .surface => none
  | .stallchk => none
  | .capchk => none
  | .fill => none
  | .readNext => some (.command 0)
  | .reset => some (.command 1)
  | .srcData data => some (.response { data := data, st := 0, e := 0 })
  | .srcEmpty => some (.response { data := [], st := 0, e := 0 })
  | .srcEof data => some (.response { data := data, st := 1, e := 0 })
  | .srcErr data e => some (.response { data := data, st := 2, e := e })
  | .srcBad x => some (.response x)

end Sys2Proof
end

