-- ==== Sys2Proof/Machine/Sequencer.lean ====
section
/-! DEFINITION. Which operation comes next: the host's command, the loop of R141, the answer to an
outstanding SrcRead. What takes the place of an instruction fetch. -/

namespace Sys2Proof.Machine

/-- L1 to L4 of R141, in that order: the first whose condition holds decides. At L2 the operation is
the one PHASE and `RBUF[R]` select (R145). -/
def State.loopTop (s : State) : Except Fault Instr :=
  if s.qNonempty then .ok .deliver
  else if s.r < s.w then
    match s.readByte s.r with
    | .error f => .error f
    | .ok b => .ok (decodeByte s.phase b)
  else if s.errPending then .ok .surface
  else .ok .stallchk

/-- The next operation of a running READ_NEXT and the state it acts on; none while a SrcRead is not
answered (R171, R262). An answer is taken from the source before it acts. -/
def State.loopNext (s : State) : Except Fault (Option (Instr × State)) :=
  match s.loc with
  | .top =>
    match s.loopTop with
    | .error f => .error f
    | .ok i => .ok (some (i, s))
  | .capchk => .ok (some (.capchk, s))
  | .fill => .ok (some (.fill, s))
  | .srcWait =>
    match s.srcq with
    | [] => .ok none
    | x :: rest => .ok (some (decodeResponse s.room x, { s with srcq := rest }))

/-- The next operation of the block. In IDLE and in FAULT it is the host's next command, none if
there is none; in BUSY it is the loop's, unless a host presents a command without waiting (R250). -/
def State.nextOp (s : State) : Except Fault (Option (Instr × State)) :=
  match s.hostq with
  | [] => if s.status = .busy then s.loopNext else .ok none
  | ev :: rest =>
    if s.status = .busy ∧ ev.whileBusy = false then s.loopNext
    else .ok (some (decodeCommand ev.cmd, { s with hostq := rest }))

/-- Put a command where the next step takes it. -/
def State.withCommand (s : State) (c : BitVec 1) : State :=
  { s with hostq := { cmd := c, whileBusy := true } :: s.hostq }

/-- Put a response where the next step takes it: a SrcRead outstanding, no command in the way. -/
def State.withResponse (s : State) (x : SrcResp) : State :=
  { s with
    status := .busy, loc := .srcWait
    hostq := s.hostq.dropWhile (fun ev => ev.whileBusy)
    srcq := x :: s.srcq }

/-- Put a stream byte where the next step decodes it, as the first byte of a frame: unread at `R`, a
READ_NEXT running, nothing queued, no command in the way, PHASE AWAIT_LEN (log 17). -/
def State.withStreamByte (s : State) (b : Byte) : State :=
  let at0 := if s.r < s.params.cap then s.r else 0
  { s with
    status := .busy, loc := .top
    hostq := s.hostq.dropWhile (fun ev => ev.whileBusy)
    msgq := []
    phase := .awaitLen
    r := at0
    w := max s.w (at0 + 1)
    rbuf := Memory.put s.rbuf at0 b }

/-- Put an encoded operation where the next step takes it. -/
def State.withCode (s : State) (c : Code) : State :=
  match c with
  | .stream b => s.withStreamByte b
  | .command k => s.withCommand k
  | .response x => s.withResponse x

end Sys2Proof.Machine
end

