-- ==== Sys2Proof/Machine/Step.lean ====
section
/-! DEFINITION. One step of the block: the next operation, executed; a block with nothing to do
keeps its state (R221). -/

namespace Sys2Proof.Machine

def step (s : State) : Host.Outcome State Fault Refusal :=
  match s.nextOp with
  | .error f => .fault f
  | .ok none => .next s
  | .ok (some (i, s')) => exec i s'

/-- The table's word where step takes its next operation (log 17); bits that are no format of the
spec change nothing. -/
def State.withFetchWord (s : State) (nbits w : Nat) : State :=
  match codeOfBits nbits w with
  | .ok c => s.withCode c
  | .error _ => s

end Sys2Proof.Machine
end

