-- ==== Sys2Proof/Machine/Reference.lean ====
section
/-! DEFINITION. The reference functions of R78 and R86 to R89. They are not hardware (R5 (c)): they
say what "the encoding of a message" means, and only statements use them. -/

namespace Sys2Proof.Machine

/-- The value of a varint's bytes, first byte first: the sum of `(b & 0x7F) * 128^(i-1)`, modulo
`2^64` when it is put into 64 bits (R78 (a)). -/
def groupSum (bytes : List Byte) : Nat :=
  match bytes with
  | [] => 0
  | b :: rest => b.toNat % 128 + 128 * groupSum rest

/-- `value` of R78 (a). -/
def varintValue (bytes : List Byte) : Word := BitVec.ofNat 64 (groupSum bytes)

/-- From `k` upwards, at most `fuel` further steps: the smallest `k` with `v < 2^(7k)`. -/
def encLenFrom (fuel k v : Nat) : Nat :=
  match fuel with
  | 0 => k
  | fuel + 1 => if v < 2 ^ (7 * k) then k else encLenFrom fuel (k + 1) v

/-- `enclen(v)`: the smallest `k` in 1..10 such that `v < 2^(7k)` (R86). -/
def encLen (v : Word) : Nat := encLenFrom 9 1 v.toNat

/-- `while v >= 0x80: out(v[6:0] | 0x80); v <- v >> 7`, then `out(v)`, at most `fuel` turns (R87). -/
def varintFrom (fuel v : Nat) : List Byte :=
  match fuel with
  | 0 => [BitVec.ofNat 8 v]
  | fuel + 1 =>
    if 128 ≤ v then BitVec.ofNat 8 (128 + v % 128) :: varintFrom fuel (v / 128)
    else [BitVec.ofNat 8 v]

/-- `VARINT(v)` (R87); nine continuation bytes suffice for 64 bits. -/
def varintEnc (v : Word) : List Byte := varintFrom 9 v.toNat

/-- `header = (id << 4) | channel` (R73). -/
def headerOf (id : BitVec 60) (channel : BitVec 4) : Word := id ++ channel

/-- `varint(header) || payload`, the body of a frame (R74). -/
def bodyEnc (m : Message) : List Byte := varintEnc (headerOf m.id m.channel) ++ m.data

/-- `MSG(id, channel, data)` (R88). DESIGN CHOICE: of a body of `2^64` bytes or more, for which R86 and R87
give no length varint, the length is put modulo `2^64` (log 24). -/
def msgEnc (m : Message) : List Byte :=
  varintEnc (BitVec.ofNat 64 (bodyEnc m).length) ++ bodyEnc m

/-- A batch: the encodings in order (R89). -/
def batchEnc (ms : List Message) : List Byte :=
  match ms with
  | [] => []
  | m :: rest => msgEnc m ++ batchEnc rest

end Sys2Proof.Machine
end

