-- ==== Sys2Proof/Safety.lean ====
section
/-! DEFINITION. What the statements speak of: the invariants of 10_state.md section 7, a run, the end
of a run, the source contract. -/

namespace Sys2Proof.Machine

/-- `0 <= R <= W <= CAP` (R26). -/
def State.IndexInv (s : State) : Prop := s.r ≤ s.w ∧ s.w ≤ s.params.cap

/-- RBUF is in canonical form, has no byte at `CAP` or above (R32), and every unread byte has been
written since reset (R63). -/
def State.BufferInv (s : State) : Prop :=
  Memory.wf s.rbuf = true ∧
  (∀ i, s.params.cap ≤ i → Memory.read s.rbuf i = none) ∧
  (∀ i, s.r ≤ i → i < s.w → (Memory.read s.rbuf i).isSome = true)

/-- `FAC = 128^CNT mod 2^64`, and `VAL < 2^(7*CNT)` when `CNT <= 9` (R108). -/
def State.AccInv (s : State) : Prop :=
  s.cnt.toNat ≤ 10 ∧ s.fac.toNat = 128 ^ s.cnt.toNat % 2 ^ 64 ∧
  (s.cnt.toNat ≤ 9 → s.val.toNat < 2 ^ (7 * s.cnt.toNat))

/-- The parser registers by phase: R24, R25, R28, R33, R39; in AWAIT_PAYLOAD `1 <= PMISS <= BLEN <=
MAX_MESSAGE_SIZE`, `len(PAY) = BLEN - PMISS`, and the accumulator idle (R100). -/
def State.FrameInv (s : State) : Prop :=
  match s.phase with
  | .awaitLen => s.blen = 0 ∧ s.hdr = 0 ∧ s.pmiss = 0 ∧ s.pay = []
  | .awaitHeader => s.blen ≠ 0 ∧ s.hdr = 0 ∧ s.pmiss = 0 ∧ s.pay = []
  | .awaitPayload =>
    (s.val = 0 ∧ s.fac = 1 ∧ s.cnt = 0) ∧ 1 ≤ s.pmiss.toNat ∧
    s.pay.length + s.pmiss.toNat = s.blen.toNat ∧ s.blen.toNat ≤ s.params.maxMessageSize

/-- The slot holds one of the three kinds FILL stores, or nothing, and a code of `EW` bits (R29). -/
def State.SlotInv (s : State) : Prop :=
  (s.errk = none ∨ s.errk = some .endOfStream ∨ s.errk = some .noProgress ∨
    s.errk = some .sourceError) ∧ s.erre < 2 ^ s.params.ew

/-- MSGQ holds at most QDEPTH messages, and one only between EMIT and the next DELIVER, at a frame
boundary of a running READ_NEXT (R34, R151). -/
def State.QueueInv (s : State) : Prop :=
  s.msgq.length ≤ Config.qdepth ∧
  (s.msgq ≠ [] → s.status = .busy ∧ s.loc = .top ∧ s.phase = .awaitLen ∧ s.cnt = 0 ∧ 1 ≤ s.r)

/-- What holds at each place of the loop of R141: a block that is not BUSY stands at its top; a
running one is not DEAD; CAPCHK and FILL are reached with everything decoded, delivered and
reported, a payload then fits (R148, R149), and every fill reads into an empty buffer (R180). -/
def State.LoopInv (s : State) : Prop :=
  (s.status ≠ .busy → s.loc = .top) ∧ (s.status = .busy → s.dead = false) ∧
  (match s.loc with
   | .top => True
   | .capchk => s.r = s.w ∧ s.errk = none ∧ s.msgq = []
   | .fill => s.r = s.w ∧ s.errk = none ∧ s.msgq = [] ∧ s.tooShort = false
   | .srcWait =>
     s.r = 0 ∧ s.w = 0 ∧ s.errk = none ∧ s.msgq = [] ∧ s.empties < s.params.maxEmptyReads)

/-- The invariants of the block. The parser registers are frozen, and mean nothing, once DEAD
(R215). -/
structure State.Inv (s : State) : Prop where
  params : s.params.Legal
  index : s.IndexInv
  buffer : s.BufferInv
  acc : s.dead = false → s.AccInv
  frame : s.dead = false → s.FrameInv
  slot : s.SlotInv
  queue : s.QueueInv
  loop : s.LoopInv
  empties : s.empties ≤ s.params.maxEmptyReads

/-- The state after `k` steps, if none of them stops. -/
def State.After (s : State) (k : Nat) (t : State) : Prop :=
  Host.Core.run Sys2Proof.core k s = .next t

/-- No command is presented to the block while it is BUSY, as the host owes (R244). -/
def State.Orderly (s : State) : Prop := ∀ ev ∈ s.hostq, ev.whileBusy = false

/-- The run has ended (R249): an error has been returned, or a panic has happened. -/
def State.Ended (s : State) : Prop := s.dead = true ∨ s.status = .fault

/-- A response that keeps the contract (a), (d) of the source, the two whose breach is a panic
(R172). -/
def InContract (x : SrcResp) (room : Nat) : Prop := x.n ≤ room ∧ x.st ≠ 3

/-- The unread bytes of RBUF begin with `bytes` (R51). -/
def State.Buffered (s : State) (bytes : List Byte) : Prop :=
  s.r + bytes.length ≤ s.w ∧ s.w ≤ s.params.cap ∧
  ∀ i, ∀ h : i < bytes.length, s.byteAt (s.r + i) = bytes[i]

/-- A running READ_NEXT at the top of its loop, with nothing queued and no command presented: the
next step decodes a byte if there is one (R141 L2). -/
def State.Parsing (s : State) : Prop :=
  s.status = .busy ∧ s.loc = .top ∧ s.msgq = [] ∧ s.Orderly

/-- The parser at a frame boundary, its registers at their reset values (R39). -/
def State.AtBoundary (s : State) : Prop :=
  s.phase = .awaitLen ∧ s.val = 0 ∧ s.fac = 1 ∧ s.cnt = 0 ∧
  s.blen = 0 ∧ s.hdr = 0 ∧ s.pmiss = 0 ∧ s.pay = []

end Sys2Proof.Machine
end

