-- ==== Sys2Proof/Certificates/Slice0/Obligations.lean ====
section
/-! DEFINITION. The statements of the model, for the provers. `loc`, `hostq`, `srcq`, `resps`,
`resets` and `params` are fields of the model's own (log 2, 4, 7, 10); everything else is a register of 10_state.md. -/

open Sys2Proof Sys2Proof.Machine

/-! ### Encoding -/

/-- The words of the spec's own worked examples, each with the operation it stands for. R122's `AC 02`
is the length varint 300, R123 and R124's `A3 05` the header varint 675, R125's `61` a payload byte;
R83's commands; R84's statuses (the schedule `04 A3`, `_`, `$`, `!9` of R90, and status 3). -/
def Obligations.ExampleWordsDecode : Prop :=
  decodeByte .awaitLen 0xAC = .lenC 0x2C ∧ decodeByte .awaitLen 0x02 = .lenT 0x02 ∧
  decodeByte .awaitHeader 0xA3 = .hdrC 0x23 ∧ decodeByte .awaitHeader 0x05 = .hdrT 0x05 ∧
  decodeByte .awaitPayload 0x61 = .payB 0x61 ∧ decodeByte .awaitPayload 0xFF = .payB 0xFF ∧
  decodeCommand 0 = .readNext ∧ decodeCommand 1 = .reset ∧
  decodeResponse 16 ⟨[0x04, 0xA3], 0, 0⟩ = .srcData [0x04, 0xA3] ∧
  decodeResponse 16 ⟨[], 0, 0⟩ = .srcEmpty ∧ decodeResponse 16 ⟨[], 1, 0⟩ = .srcEof [] ∧
  decodeResponse 16 ⟨[], 2, 9⟩ = .srcErr [] 9 ∧ decodeResponse 16 ⟨[], 3, 0⟩ = .srcBad ⟨[], 3, 0⟩ ∧
  decodeResponse 1 ⟨[0x04, 0xA3], 0, 0⟩ = .srcBad ⟨[0x04, 0xA3], 0, 0⟩

/-- R76 with R71: PHASE and bit 7 alone select the operation of a stream byte, for all 256 values in
all three phases; the group is the byte modulo 128. -/
def Obligations.PhaseAndFlagSelectTheOperation : Prop :=
  ∀ b : Byte,
    (128 ≤ b.toNat →
      (∃ g : Group, g.toNat = b.toNat - 128 ∧ decodeByte .awaitLen b = .lenC g) ∧
      (∃ g : Group, g.toNat = b.toNat - 128 ∧ decodeByte .awaitHeader b = .hdrC g)) ∧
    (b.toNat < 128 →
      (∃ g : Group, g.toNat = b.toNat ∧ decodeByte .awaitLen b = .lenT g) ∧
      (∃ g : Group, g.toNat = b.toNat ∧ decodeByte .awaitHeader b = .hdrT g)) ∧
    decodeByte .awaitPayload b = .payB b

/-- Decoding the words of a well-formed operation gives it back, every operand at every value, in the
phase its row names and with the room its selection names; operations without words are exactly the
eight micro-operations of R70. -/
def Obligations.DecodeInvertsEncode : Prop :=
  ∀ (i : Instr) (p : Phase) (room ew : Nat), i.wellFormed room ew = true → i.inPhase p = true →
    (∃ c, encode i = some c ∧ decode p room c = i) ∨
    (encode i = none ∧ i ∈ [Instr.vreset, .emit, .deliver, .compact, .surface, .stallchk, .capchk,
      .fill])

/-- Every stream byte and every command, decoded and encoded again, is the same word, and what it
decodes to is well formed and of the phase it was decoded in: no bit is dropped, none refused (R14). -/
def Obligations.EncodeInvertsDecodeOnBytesAndCommands : Prop :=
  ∀ (p : Phase) (room ew : Nat),
    (∀ b : Byte, encode (decodeByte p b) = some (.stream b) ∧
      (decodeByte p b).wellFormed room ew = true ∧ (decodeByte p b).inPhase p = true) ∧
    (∀ c : BitVec 1, encode (decodeCommand c) = some (.command c) ∧
      (decodeCommand c).wellFormed room ew = true)

/-- The selection of R84 (the codes are 92 D16): a response outside the contract is SRC.BAD whatever
its status, and else the status and the count choose. -/
def Obligations.ResponseStatusAndCountSelectTheOperation : Prop :=
  ∀ (room : Nat) (x : SrcResp),
    ((x.st.toNat = 3 ∨ room < x.data.length) → decodeResponse room x = .srcBad x) ∧
    (x.st.toNat = 0 → 0 < x.data.length → x.data.length ≤ room →
      decodeResponse room x = .srcData x.data) ∧
    (x.st.toNat = 0 → x.data.length = 0 → decodeResponse room x = .srcEmpty) ∧
    (x.st.toNat = 1 → x.data.length ≤ room → decodeResponse room x = .srcEof x.data) ∧
    (x.st.toNat = 2 → x.data.length ≤ room → decodeResponse room x = .srcErr x.data x.e)

/-- `len(VARINT(v)) = enclen(v)`, and decoding `VARINT(v)` by R78 gives `v` (R87); `enclen(v)` is the
smallest `k` in 1..10 with `v < 2^(7k)` (R86). -/
def Obligations.ReferenceVarintIsShortestAndInvertible : Prop :=
  ∀ v : Word,
    (varintEnc v).length = encLen v ∧ varintValue (varintEnc v) = v ∧
    1 ≤ encLen v ∧ encLen v ≤ 10 ∧ v.toNat < 2 ^ (7 * encLen v) ∧
    (∀ k, 1 ≤ k → v.toNat < 2 ^ (7 * k) → encLen v ≤ k)

/-! ### The step -/

/-- A running READ_NEXT with nothing queued and no command presented executes the operation that
PHASE and the byte at the read position select (R145, R76). -/
def Obligations.StepRunsTheByteAtTheReadPosition : Prop :=
  ∀ (s : State) (b : Byte), s.Parsing → s.r < s.w → s.r < s.params.cap →
    s.byteAt s.r = b → step s = exec (decodeByte s.phase b) s

/-- The drive loop of R141: L1 before L2 before L3 before L4, then L5, then L6. L2 is
`StepRunsTheByteAtTheReadPosition`; here its precedence over L3 and L4 is the premise `s.w ≤ s.r`. -/
def Obligations.DriveLoopOrder : Prop :=
  ∀ s : State, s.status = .busy → s.Orderly →
    (s.loc = .top → s.msgq ≠ [] → step s = exec .deliver s) ∧
    (s.loc = .top → s.msgq = [] → s.w ≤ s.r → s.errk ≠ none → step s = exec .surface s) ∧
    (s.loc = .top → s.msgq = [] → s.w ≤ s.r → s.errk = none → step s = exec .stallchk s) ∧
    (s.loc = .capchk → step s = exec .capchk s) ∧
    (s.loc = .fill → step s = exec .fill s)

/-- A command is taken in IDLE, in FAULT, and, from a host that does not wait, in BUSY; the step
executes it (R83, R140, R153; the third case is log 16). -/
def Obligations.StepRunsTheHostCommand : Prop :=
  ∀ (s : State) (c : BitVec 1) (early : Bool) (rest : List HostEvent),
    s.hostq = ⟨c, early⟩ :: rest → (s.status ≠ .busy ∨ early = true) →
    step s = exec (decodeCommand c) { s with hostq := rest }

/-- The answer to an outstanding SrcRead is taken once and acts with the offered room `CAP - W`
(R171, R84). -/
def Obligations.StepRunsTheSourceResponse : Prop :=
  ∀ (s : State) (x : SrcResp) (rest : List SrcResp),
    s.status = .busy → s.loc = .srcWait → s.Orderly → s.srcq = x :: rest →
    step s = exec (decodeResponse (s.params.cap - s.w) x) { s with srcq := rest }

/-- A block with no command to take, or with an unanswered SrcRead, keeps all of its state (R221,
R262; log 3). -/
def Obligations.WaitingBlockKeepsItsState : Prop :=
  ∀ s : State,
    (s.status ≠ .busy → s.hostq = [] → step s = .next s) ∧
    (s.status = .busy → s.Orderly → s.loc = .srcWait → s.srcq = [] → step s = .next s)

/-- The model's own fetch fixture (log 17): a word of the opcode table is what the very next step
runs. -/
def Obligations.FetchWordIsTheNextOperation : Prop :=
  ∀ (s : State) (nbits w : Nat) (i : Instr), 1 ≤ s.params.cap →
    decodeTableWord nbits w = some i →
    ∃ s', step (s.withFetchWord nbits w) = exec i s' ∧
      s'.params = s.params ∧ s'.dead = s.dead ∧ s'.val = s.val ∧ s'.cnt = s.cnt

/-! ### Varint bytes. `R <- R + 1` stores IDXW bits (R7, R26; log 13) -/

/-- R102 inside R121 and R123: a continuation byte that is not the eleventh adds its group at the
current weight, weighs the next group by 128, counts and consumes the byte; nothing else changes, the
phase included. That the sums wrap modulo `2^64` is the spec's own 92 D2. -/
def Obligations.ContinuationByteAccumulates : Prop :=
  ∀ (s : State) (g : Group), s.cnt.toNat ≤ 9 →
    ∃ (v f : Word) (c : BitVec 4),
      v.toNat = (s.val.toNat + g.toNat * s.fac.toNat) % 2 ^ 64 ∧
      f.toNat = s.fac.toNat * 128 % 2 ^ 64 ∧ c.toNat = s.cnt.toNat + 1 ∧
      exec (.lenC g) s = .next { s with
        val := v, fac := f, cnt := c, r := (s.r + 1) % 2 ^ s.params.idxw } ∧
      exec (.hdrC g) s = .next { s with
        val := v, fac := f, cnt := c, r := (s.r + 1) % 2 ^ s.params.idxw }

/-- R104: the eleventh byte of a varint with the continuation flag raises Malformed, whichever varint
it is; the byte has been consumed. What a raise leaves is R215, whose DEAD latch and unchanged
registers are the spec's own 92 D6 and D26; the wrap-around is its 92 D2. -/
def Obligations.EleventhContinuationByteIsMalformed : Prop :=
  ∀ (s : State) (g : Group), s.cnt.toNat = 10 →
    ∃ v f : Word,
      v.toNat = (s.val.toNat + g.toNat * s.fac.toNat) % 2 ^ 64 ∧
      f.toNat = s.fac.toNat * 128 % 2 ^ 64 ∧
      exec (.lenC g) s = .next { s with
        val := v, fac := f, cnt := 11,
        r := (s.r + 1) % 2 ^ s.params.idxw, dead := true, status := .idle, loc := .top,
        resps := s.resps ++ [.error .malformed none] } ∧
      exec (.hdrC g) s = exec (.lenC g) s

/-- R122 (over R101, R103, R106): the terminator of a length varint sets BLEN to the value, resets the
accumulator, and goes to AWAIT_HEADER unless the value is 0, a zero-length frame. It holds for every
count, so an eleventh byte that is a terminator completes the varint (R107). That the sum wraps modulo
`2^64` is the spec's own 92 D2. -/
def Obligations.LengthTerminatorSetsBodyLength : Prop :=
  ∀ (s : State) (g : Group),
    ∃ v : Word, v.toNat = (s.val.toNat + g.toNat * s.fac.toNat) % 2 ^ 64 ∧
      (v.toNat = 0 → exec (.lenT g) s = .next { s with
        val := 0, fac := 1, cnt := 0,
        r := (s.r + 1) % 2 ^ s.params.idxw, blen := 0, phase := .awaitLen }) ∧
      (v.toNat ≠ 0 → exec (.lenT g) s = .next { s with
        val := 0, fac := 1, cnt := 0,
        r := (s.r + 1) % 2 ^ s.params.idxw, blen := v, phase := .awaitHeader })

/-- R110: what a varint byte leaves in the parser registers depends only on the byte, the
accumulator, BLEN, the phase and MAX_MESSAGE_SIZE: not on the buffer, the indices, the slot or the
interfaces, so not on how the stream was cut. -/
def Obligations.VarintBytesDependOnlyOnTheParserRegisters : Prop :=
  ∀ (s s' : State) (g : Group) (i : Instr),
    i ∈ [Instr.lenC g, .lenT g, .hdrC g, .hdrT g] →
    s.val = s'.val → s.fac = s'.fac → s.cnt = s'.cnt → s.blen = s'.blen → s.hdr = s'.hdr →
    s.pmiss = s'.pmiss → s.pay = s'.pay → s.phase = s'.phase →
    s.params.maxMessageSize = s'.params.maxMessageSize →
    ∃ t t', exec i s = .next t ∧ exec i s' = .next t' ∧
      t.val = t'.val ∧ t.fac = t'.fac ∧ t.cnt = t'.cnt ∧ t.blen = t'.blen ∧ t.hdr = t'.hdr ∧
      t.pmiss = t'.pmiss ∧ t.pay = t'.pay ∧ t.phase = t'.phase

/-- R109 at the block: the bytes of `VARINT(v)`, unread at a frame boundary, are decoded in
`enclen(v)` steps to `BLEN = v`, with the accumulator back at `(0, 1, 0)` and nothing else touched. -/
def Obligations.LengthVarintRoundTrip : Prop :=
  ∀ (s : State) (v : Word), s.Parsing → s.phase = .awaitLen →
    s.val = 0 → s.fac = 1 → s.cnt = 0 → s.Buffered (varintEnc v) →
    s.After (encLen v) { s with
      r := s.r + encLen v, blen := v,
      phase := if v.toNat = 0 then .awaitLen else .awaitHeader }

/-! ### The header and the payload -/

/-- R124, the middle case: with `c` the bytes of the header varint and `1 <= BLEN - c <=
MAX_MESSAGE_SIZE`, the payload of `BLEN - c` bytes begins. The order and the bound are the spec's own
92 D7 and D8, the wrap-around its 92 D2. -/
def Obligations.HeaderTerminatorBeginsThePayload : Prop :=
  ∀ (s : State) (g : Group), s.cnt.toNat ≤ 10 →
    s.cnt.toNat + 1 < s.blen.toNat →
    s.blen.toNat - (s.cnt.toNat + 1) ≤ s.params.maxMessageSize →
    ∃ v len : Word, v.toNat = (s.val.toNat + g.toNat * s.fac.toNat) % 2 ^ 64 ∧
      len.toNat = s.blen.toNat - (s.cnt.toNat + 1) ∧
      exec (.hdrT g) s = .next { s with
        val := 0, fac := 1, cnt := 0,
        r := (s.r + 1) % 2 ^ s.params.idxw, hdr := v, blen := len, pmiss := len,
        pay := [], phase := .awaitPayload }

/-- R124 with R126, the empty payload: a body that is all header is a message with no data, queued by
the same operation, which ends at a frame boundary (R128). What EMIT clears is the spec's own 92 D10,
the wrap-around its 92 D2. That it does the same behind a message queued already is the model's choice
(log 22). -/
def Obligations.HeaderTerminatorEmitsAnEmptyMessage : Prop :=
  ∀ (s : State) (g : Group), s.cnt.toNat ≤ 10 → s.blen.toNat = s.cnt.toNat + 1 →
    ∃ m : Message,
      m.id.toNat = (s.val.toNat + g.toNat * s.fac.toNat) % 2 ^ 64 / 16 ∧
      m.channel.toNat = (s.val.toNat + g.toNat * s.fac.toNat) % 16 ∧ m.data = [] ∧
      exec (.hdrT g) s = .next { s with
        val := 0, fac := 1, cnt := 0,
        r := (s.r + 1) % 2 ^ s.params.idxw, hdr := 0, blen := 0, pmiss := 0,
        pay := [], phase := .awaitLen, msgq := s.msgq ++ [m] }

/-- R124, R206 (b): a header varint longer than the body is Malformed, tested before the subtraction;
HDR has been written, BLEN and FAC have not. The raise is R215 (the spec's own 92 D6, D7, D26), the
wrap-around 92 D2. -/
def Obligations.HeaderLongerThanBodyIsMalformed : Prop :=
  ∀ (s : State) (g : Group), s.cnt.toNat ≤ 10 → s.blen.toNat < s.cnt.toNat + 1 →
    ∃ (v : Word) (c : BitVec 4), v.toNat = (s.val.toNat + g.toNat * s.fac.toNat) % 2 ^ 64 ∧
      c.toNat = s.cnt.toNat + 1 ∧
      exec (.hdrT g) s = .next { s with
        val := v, cnt := c,
        r := (s.r + 1) % 2 ^ s.params.idxw, hdr := v, dead := true, status := .idle, loc := .top,
        resps := s.resps ++ [.error .malformed none] }

/-- R124, R207: a payload longer than MAX_MESSAGE_SIZE is Oversize, tested on the difference and
strictly (the spec's own 92 D7, D8); no payload is set up. The raise is R215 (92 D6, D26), the
wrap-around 92 D2. -/
def Obligations.PayloadAboveTheMaximumIsOversize : Prop :=
  ∀ (s : State) (g : Group), s.cnt.toNat ≤ 10 → s.cnt.toNat + 1 ≤ s.blen.toNat →
    s.params.maxMessageSize < s.blen.toNat - (s.cnt.toNat + 1) →
    ∃ (v len : Word) (c : BitVec 4),
      v.toNat = (s.val.toNat + g.toNat * s.fac.toNat) % 2 ^ 64 ∧
      len.toNat = s.blen.toNat - (s.cnt.toNat + 1) ∧ c.toNat = s.cnt.toNat + 1 ∧
      exec (.hdrT g) s = .next { s with
        val := v, cnt := c,
        r := (s.r + 1) % 2 ^ s.params.idxw, hdr := v, blen := len, dead := true, status := .idle,
        loc := .top, resps := s.resps ++ [.error .oversize none] }

/-- R125 short of the payload's end (log 12): a burst of `k = min(PMISS, W - R)` bytes, `k < PMISS`, goes to
the end of PAY; R advances and PMISS goes down by `k`; no other state changes. -/
def Obligations.PayloadBurstCopiesTheBufferedBytes : Prop :=
  ∀ (s : State) (d : Byte) (rest : List Byte), s.Buffered (d :: rest) →
    (d :: rest).length = min s.pmiss.toNat (s.w - s.r) → (d :: rest).length < s.pmiss.toNat →
    ∃ p : Word, p.toNat = s.pmiss.toNat - (d :: rest).length ∧
      exec (.payB d) s = .next { s with
        pay := s.pay ++ d :: rest, r := s.r + (d :: rest).length, pmiss := p }

/-- R125 with R126 at the payload's end: the burst that copies the last byte queues the message and
ends at a frame boundary; the byte after it stays unread. What EMIT clears is 92 D10. That PAY is a list,
and its whole content with the burst the data, is 92 D11 and log 12, and MSGQ as a list log 22. -/
def Obligations.LastPayloadBurstEmitsTheMessage : Prop :=
  ∀ (s : State) (d : Byte) (rest : List Byte), s.Buffered (d :: rest) →
    s.pmiss.toNat = (d :: rest).length →
    ∃ m : Message, m.id.toNat = s.hdr.toNat / 16 ∧ m.channel.toNat = s.hdr.toNat % 16 ∧
      m.data = s.pay ++ d :: rest ∧
      exec (.payB d) s = .next { s with
        val := 0, fac := 1, cnt := 0, r := s.r + (d :: rest).length, hdr := 0, blen := 0,
        pmiss := 0, pay := [], phase := .awaitLen, msgq := s.msgq ++ [m] }

/-- R126: EMIT queues `Message(HDR >> 4, HDR & 0xF, PAY)` and leaves the parser at a frame boundary
(clearing BLEN and HDR as well is 92 D10). R126 gives it where PHASE is AWAIT_PAYLOAD, PMISS is 0 and
len(PAY) is BLEN; that it does the same in every other state, with the whole of PAY as the data and behind
a message queued already, is the model's choice (log 12, log 19, log 22; PAY as a list is 92 D11). -/
def Obligations.EmitQueuesTheMessage : Prop :=
  ∀ s : State,
    ∃ m : Message, m.id.toNat = s.hdr.toNat / 16 ∧ m.channel.toNat = s.hdr.toNat % 16 ∧
      m.data = s.pay ∧
      exec .emit s = .next { s with
        val := 0, fac := 1, cnt := 0, hdr := 0, blen := 0, pmiss := 0, pay := [],
        phase := .awaitLen, msgq := s.msgq ++ [m] }

/-- R106: VRESET sets the accumulator to `(0, 1, 0)` and touches nothing else. -/
def Obligations.VresetClearsTheAccumulator : Prop :=
  ∀ s : State, exec .vreset s = .next { s with val := 0, fac := 1, cnt := 0 }

/-! ### The drive loop's micro-operations -/

/-- R144, R56: COMPACT moves the unread bytes to offset 0 and re-bases the indices. The stored bytes
are `RBUF[0 .. W-R-1]`; every byte outside them reads as before. W is a number of IDXW bits (R26); what
COMPACT does with W above CAP, where RBUF has no bytes, is the model's choice (log 23). -/
def Obligations.CompactMovesTheUnreadBytes : Prop :=
  ∀ s : State, s.r ≤ s.w → s.w < 2 ^ s.params.idxw →
    ∃ m : Memory,
      exec .compact s = .next { s with rbuf := m, r := 0, w := s.w - s.r } ∧
      (∀ a, a < s.w - s.r → Memory.byteAt m s.resets a = s.byteAt (s.r + a)) ∧
      (∀ a, s.w - s.r ≤ a → Memory.byteAt m s.resets a = s.byteAt a)

/-- R143: DELIVER pops the head of the queue, compacts, and returns the message; the pending error
stays in the slot, and STATUS is IDLE again (R140). What the compaction does with W above CAP, where RBUF
has no bytes, is the model's choice (log 23). -/
def Obligations.DeliverReturnsTheHeadAndCompacts : Prop :=
  ∀ (s : State) (head : Message) (rest : List Message), s.msgq = head :: rest → s.r ≤ s.w →
    s.w < 2 ^ s.params.idxw →
    ∃ m : Memory,
      exec .deliver s = .next { s with
        msgq := rest, rbuf := m, r := 0, w := s.w - s.r, status := .idle, loc := .top,
        resps := s.resps ++ [.message head] } ∧
      (∀ a, a < s.w - s.r → Memory.byteAt m s.resets a = s.byteAt (s.r + a)) ∧
      (∀ a, s.w - s.r ≤ a → Memory.byteAt m s.resets a = s.byteAt a)

/-- R146 with R205: SURFACE clears the slot, sets DEAD and returns the error; an end of stream in
mid-frame is UnexpectedEndOfStream, no other kind is changed, and only SourceError carries its code.
The DEAD latch and the registers a raise leaves are the spec's own 92 D6 and D26. -/
def Obligations.SurfaceReportsTheSlotError : Prop :=
  ∀ (s : State) (k : ErrKind), s.errk = some k →
    ∃ (k' : ErrKind) (e : Option ErrCode),
      exec .surface s = .next { s with
        errk := none, dead := true, status := .idle, loc := .top,
        resps := s.resps ++ [.error k' e] } ∧
      (k = .endOfStream → (s.phase ≠ .awaitLen ∨ 0 < s.cnt.toNat) → k' = .unexpectedEndOfStream) ∧
      (k = .endOfStream → s.phase = .awaitLen → s.cnt.toNat = 0 → k' = .endOfStream) ∧
      (k ≠ .endOfStream → k' = k) ∧
      (k = .sourceError → e = some s.erre) ∧ (k ≠ .sourceError → e = none)

/-- R147 in its progress form (92 D3): STALLCHK never raises and writes no register; the loop goes on
to CAPCHK (log 11). -/
def Obligations.StallGuardNeverRaises : Prop :=
  ∀ s : State, exec .stallchk s = .next { s with loc := .capchk }

/-- R148: `ShortBuffer` exactly when a payload is in progress and `W + PMISS > CAP`, the sum without
wrap-around; else the loop goes on to FILL (log 10). Equality passes, and outside AWAIT_PAYLOAD
everything does. The DEAD latch and the registers a raise leaves are the spec's own 92 D6 and D26. -/
def Obligations.CapacityCheckRaisesShortBuffer : Prop :=
  ∀ s : State,
    (s.phase = .awaitPayload → s.params.cap < s.w + s.pmiss.toNat →
      exec .capchk s = .next { s with
        dead := true, status := .idle, loc := .top,
        resps := s.resps ++ [.error .shortBuffer none] }) ∧
    (s.phase ≠ .awaitPayload ∨ s.w + s.pmiss.toNat ≤ s.params.cap →
      exec .capchk s = .next { s with loc := .fill })

/-- DELIVER with nothing queued and SURFACE with an empty slot stop by name: the model's choice for
operations the loop never issues there (log 18). -/
def Obligations.NothingToDeliverOrSurfaceStops : Prop :=
  ∀ s : State,
    (s.msgq = [] → exec .deliver s = .fault .emptyQueue) ∧
    (s.errk = none → exec .surface s = .fault .emptySlot)

/-- RBUF ends at CAP (R32, R50). Where the bytes behind the first of a burst all lie below CAP, or there
are none, PAY.B runs, whatever has or has not been written there; where one does not, PAY.B stops by name,
and so does the fetch of a stream byte at CAP or above: the model's choice for an access to a byte that
does not exist (log 23). What an unwritten byte holds is a free value (log 7). -/
def Obligations.OnlyBytesThatDoNotExistStop : Prop :=
  ∀ (s : State) (d : Byte),
    (min s.pmiss.toNat (s.w - s.r) ≤ 1 ∨ s.r + min s.pmiss.toNat (s.w - s.r) ≤ s.params.cap →
      ∃ t, exec (.payB d) s = .next t) ∧
    (2 ≤ min s.pmiss.toNat (s.w - s.r) → s.params.cap < s.r + min s.pmiss.toNat (s.w - s.r) →
      exec (.payB d) s = .fault .outsideBuffer) ∧
    (s.Parsing → s.r < s.w → s.params.cap ≤ s.r → step s = .fault .outsideBuffer)

/-! ### The fill protocol -/

/-- R170 F1 to F3: FILL re-bases the buffer, counts from 0, and issues a SrcRead; the registers of the
parser, the slot and the queue are untouched. What the compaction of F1 does with W above CAP, where RBUF
has no bytes, is the model's choice (log 23). -/
def Obligations.FillCompactsAndReads : Prop :=
  ∀ s : State, s.r ≤ s.w → s.w < 2 ^ s.params.idxw → s.w - s.r < s.params.cap → 1 ≤ s.params.maxEmptyReads →
    ∃ m : Memory,
      exec .fill s = .next { s with
        rbuf := m, r := 0, w := s.w - s.r, empties := 0, loc := .srcWait } ∧
      (∀ a, a < s.w - s.r → Memory.byteAt m s.resets a = s.byteAt (s.r + a)) ∧
      (∀ a, s.w - s.r ≤ a → Memory.byteAt m s.resets a = s.byteAt a)

/-- R179, R208, 93 U26: FILL with a buffer that is full once re-based panics, without a response, and
with no read allowed stores NoProgress; either way the buffer has been re-based (R170 F1). FAULT is the
spec's own 92 D17, the second clause its 92 D18. With W above CAP, as in every panic with R above 0, the
compaction takes in bytes that RBUF does not have: the model's choice (log 23). -/
def Obligations.FillWithoutRoomOrReads : Prop :=
  ∀ s : State, s.r ≤ s.w → s.w < 2 ^ s.params.idxw →
    ∃ m : Memory,
      (s.params.cap ≤ s.w - s.r → exec .fill s = .next { s with
        rbuf := m, r := 0, w := s.w - s.r, status := .fault, pcause := .full, loc := .top }) ∧
      (s.w - s.r < s.params.cap → s.params.maxEmptyReads = 0 → exec .fill s = .next { s with
        rbuf := m, r := 0, w := s.w - s.r, empties := 0, errk := some .noProgress, loc := .top }) ∧
      (∀ a, a < s.w - s.r → Memory.byteAt m s.resets a = s.byteAt (s.r + a)) ∧
      (∀ a, s.w - s.r ≤ a → Memory.byteAt m s.resets a = s.byteAt a)

/-- R173: the bytes of a SRC.DATA response go to `RBUF[W .. W+n-1]`, W advances by `n`, and FILL
returns; every other byte reads as before. -/
def Obligations.SourceDataIsStoredAtW : Prop :=
  ∀ (s : State) (data : List Byte), 1 ≤ data.length → s.w + data.length ≤ s.params.cap →
    ∃ m : Memory,
      exec (.srcData data) s = .next { s with rbuf := m, w := s.w + data.length, loc := .top } ∧
      (∀ k, ∀ h : k < data.length, Memory.byteAt m s.resets (s.w + k) = data[k]) ∧
      (∀ a, (a < s.w ∨ s.w + data.length ≤ a) → Memory.byteAt m s.resets a = s.byteAt a)

/-- R174, R170, R178: an empty response counts; while the count is below MAX_EMPTY_READS the next SrcRead
is outstanding, and the last one stores NoProgress. Memory is untouched. That the count is stored modulo
two to the width of EMPTIES is the model's reading of R7 and R20 (log 13). -/
def Obligations.SourceEmptyCountsUpToTheBound : Prop :=
  ∀ s : State, s.w ≤ s.params.cap →
    ∃ count : Nat, count = (s.empties + 1) % 2 ^ s.params.emptiesw ∧
      (count < s.params.maxEmptyReads →
        exec .srcEmpty s = .next { s with empties := count, loc := .srcWait }) ∧
      (s.params.maxEmptyReads ≤ count →
        exec .srcEmpty s = .next { s with
          empties := count, errk := some .noProgress, loc := .top })

/-- R175: bytes that come with the end of the stream are stored first; the slot takes the plain
EndOfStream. -/
def Obligations.SourceEofStoresBytesThenTheEnd : Prop :=
  ∀ (s : State) (data : List Byte), s.w + data.length ≤ s.params.cap →
    ∃ m : Memory,
      exec (.srcEof data) s = .next { s with
        rbuf := m, w := s.w + data.length, errk := some .endOfStream, loc := .top } ∧
      (∀ k, ∀ h : k < data.length, Memory.byteAt m s.resets (s.w + k) = data[k]) ∧
      (∀ a, (a < s.w ∨ s.w + data.length ≤ a) → Memory.byteAt m s.resets a = s.byteAt a)

/-- R176: an I/O error takes the slot with its code of `EW` bits; bytes a contract-breaking source
sends with it are stored (92 D21). -/
def Obligations.SourceErrorTakesTheSlot : Prop :=
  ∀ (s : State) (data : List Byte) (e : ErrCode),
    s.w + data.length ≤ s.params.cap → e < 2 ^ s.params.ew →
    ∃ m : Memory,
      exec (.srcErr data e) s = .next { s with
        rbuf := m, w := s.w + data.length, errk := some .sourceError, erre := e, loc := .top } ∧
      (∀ k, ∀ h : k < data.length, Memory.byteAt m s.resets (s.w + k) = data[k]) ∧
      (∀ a, (a < s.w ∨ s.w + data.length ≤ a) → Memory.byteAt m s.resets a = s.byteAt a)

/-- R177, R209, R218: a response outside the contract panics, whatever its status: FAULT with cause
PANIC_BADREAD, nothing stored, no response. FAULT is the spec's own 92 D17, and what counts as outside
the contract 92 D21. -/
def Obligations.ResponseOutsideTheContractPanics : Prop :=
  ∀ (s : State) (x : SrcResp),
    exec (.srcBad x) s = .next { s with status := .fault, pcause := .badRead, loc := .top } ∧
    (∀ rest, s.status = .busy → s.loc = .srcWait → s.Orderly → s.srcq = x :: rest →
      (x.st.toNat = 3 ∨ s.params.cap - s.w < x.data.length) →
      step s = .next { s with srcq := rest, status := .fault, pcause := .badRead, loc := .top })

/-- R178 over a whole fill: as many empty responses as the bound still allows, whatever else they
carry, end it with NoProgress in the slot, one SrcRead each; the next response is never taken. -/
def Obligations.EmptyReadsEndInNoProgress : Prop :=
  ∀ (s : State) (xs rest : List SrcResp), s.status = .busy → s.loc = .srcWait → s.Orderly →
    s.w ≤ s.params.cap → (∀ x ∈ xs, x.data = [] ∧ x.st = 0) → xs ≠ [] →
    s.empties + xs.length = s.params.maxEmptyReads → s.srcq = xs ++ rest →
    s.After xs.length { s with
      srcq := rest, empties := s.params.maxEmptyReads, errk := some .noProgress, loc := .top }

/-! ### The host commands -/

/-- R140 and R142 (`L0`): READ_NEXT in IDLE starts the loop, or, when DEAD, answers EndOfStream and
touches no other state. The DEAD latch is the spec's own 92 D6. -/
def Obligations.ReadNextStartsTheLoop : Prop :=
  ∀ s : State, s.status = .idle →
    (s.dead = false → exec .readNext s = .next { s with status := .busy, loc := .top }) ∧
    (s.dead = true → exec .readNext s = .next { s with
      loc := .top, resps := s.resps ++ [.error .endOfStream none] })

/-- R153, R40: RESET in IDLE or in FAULT gives every register its reset value, keeps the parameters
and gives no response; RBUF and PCAUSE are unspecified after it (R241), and this says nothing of them.
The values are the spec's own 92 D12, ERRE = 0 the model's (log 6), the count of resets log 7, and that the
interfaces keep their lists is log 2. -/
def Obligations.ResetCommandRestoresTheResetValues : Prop :=
  ∀ s : State, s.status ≠ .busy →
    ∃ (m : Memory) (c : PanicCause), exec .reset s = .next
      { params := s.params, val := 0, fac := 1, cnt := 0, blen := 0, hdr := 0, pmiss := 0,
        r := 0, w := 0, phase := .awaitLen, errk := none, erre := 0, dead := false, empties := 0,
        rbuf := m, pay := [], msgq := [], status := .idle, pcause := c,
        loc := .top, resets := s.resets + 1, hostq := s.hostq, srcq := s.srcq, resps := s.resps }

/-- R218, R219, R250: a command the block does not accept has no effect and no response: any command
in BUSY, READ_NEXT in FAULT (the spec's own 92 D17, D25; log 16). -/
def Obligations.UnacceptedCommandsHaveNoEffect : Prop :=
  ∀ s : State,
    (s.status = .busy → exec .readNext s = .next s ∧ exec .reset s = .next s) ∧
    (s.status = .fault → exec .readNext s = .next s)

/-- R142, R249 over a whole run: a DEAD block answers every READ_NEXT with EndOfStream, decodes
nothing and takes nothing from the source (the spec's own 92 D6). -/
def Obligations.DeadBlockAnswersEndOfStreamForEver : Prop :=
  ∀ (s : State) (evs : List HostEvent), s.status = .idle → s.loc = .top → s.dead = true →
    (∀ ev ∈ evs, ev.cmd = 0) → s.hostq = evs →
    s.After evs.length { s with
      hostq := [],
      resps := s.resps ++ List.replicate evs.length (.error .endOfStream none) }

/-! ### The whole machine -/

/-- The reset state meets the invariants. Its parameter values are the model's (log 4, log 5). -/
def Obligations.ResetStateMeetsTheInvariants : Prop := State.reset.Inv

/-- From every state that meets them, and not only on runs from reset, a step keeps the invariants of
10_state.md section 7: R26, R28, R29, R34, R38, R39, R63, R108, R151, R180. -/
def Obligations.StepKeepsTheInvariants : Prop :=
  ∀ s t : State, s.Inv → step s = .next t → t.Inv

/-- The step is total (R14): from every state that meets the invariants it answers a next state, so no
byte that does not exist is read, nothing is popped from an empty queue, no empty slot is surfaced. -/
def Obligations.StepNeverStops : Prop :=
  ∀ s : State, s.Inv → ∃ t, step s = .next t

/-- Every operation keeps RBUF in canonical form, whatever the state. -/
def Obligations.EveryOperationKeepsTheBufferCanonical : Prop :=
  ∀ (i : Instr) (s t : State), exec i s = .next t → Memory.wf s.rbuf = true →
    Memory.wf t.rbuf = true

/-- R6, R40: no operation changes a parameter. -/
def Obligations.NoOperationChangesAParameter : Prop :=
  ∀ (i : Instr) (s t : State), exec i s = .next t → t.params = s.params

/-- R6, R20, R26: IDXW is the smallest width that holds every number up to CAP, and the width of EMPTIES
the smallest that holds every number up to MAX_EMPTY_READS. The four registers whose width a parameter
gives keep to it, each by itself: where R and W, EMPTIES, or ERRE does, it does after every operation
(log 13, log 15). -/
def Obligations.RegistersKeepTheirParameterWidths : Prop :=
  (∀ (p : Params) (k : Nat), (p.cap < 2 ^ k ↔ p.idxw ≤ k) ∧
    (p.maxEmptyReads < 2 ^ k ↔ p.emptiesw ≤ k)) ∧
  (∀ (i : Instr) (s t : State), exec i s = .next t →
    (s.r < 2 ^ s.params.idxw → s.w < 2 ^ s.params.idxw →
      t.r < 2 ^ t.params.idxw ∧ t.w < 2 ^ t.params.idxw) ∧
    (s.empties < 2 ^ s.params.emptiesw → t.empties < 2 ^ t.params.emptiesw) ∧
    (s.erre < 2 ^ s.params.ew → t.erre < 2 ^ t.params.ew))

/-- R54: no operation but COMPACT, those that contain it and the source responses with bytes writes
RBUF; RESET, after which the spec leaves RBUF unspecified, is the model's exception (log 8). -/
def Obligations.OnlySourceAndCompactionWriteTheBuffer : Prop :=
  ∀ (i : Instr) (s t : State), exec i s = .next t →
    (t.rbuf = s.rbuf ∧ t.resets = s.resets) ∨
      i = .compact ∨ i = .deliver ∨ i = .fill ∨ i = .reset ∨
      (∃ data, data ≠ [] ∧ i = .srcData data) ∨ (∃ data, data ≠ [] ∧ i = .srcEof data) ∨
      (∃ data e, data ≠ [] ∧ i = .srcErr data e)

/-- R127: the only moves of PHASE in a step, with the operation that makes each; RESET besides (R153). -/
def Obligations.PhaseMovesOnlyAtFrameUnits : Prop :=
  ∀ (s s' t : State) (i : Instr), s.Inv → s.nextOp = .ok (some (i, s')) → step s = .next t →
    t.phase ≠ s.phase →
    (s.phase = .awaitLen ∧ t.phase = .awaitHeader ∧ (∃ g, i = .lenT g) ∧ t.blen ≠ 0) ∨
    (s.phase = .awaitHeader ∧ t.phase = .awaitPayload ∧ (∃ g, i = .hdrT g) ∧
      1 ≤ t.pmiss.toNat ∧ t.pmiss.toNat ≤ s.params.maxMessageSize) ∨
    (s.phase = .awaitHeader ∧ t.phase = .awaitLen ∧ (∃ g, i = .hdrT g) ∧
      s.blen.toNat = s.cnt.toNat + 1 ∧ t.msgq.length = 1) ∨
    (s.phase = .awaitPayload ∧ t.phase = .awaitLen ∧ (∃ d, i = .payB d) ∧
      s.pmiss.toNat ≤ s.w - s.r ∧ t.msgq.length = 1) ∨
    (i = .reset ∧ t.phase = .awaitLen)

/-- R30: DEAD, once set, is cleared by RESET alone (the latch is the spec's own 92 D6). -/
def Obligations.OnlyResetClearsDead : Prop :=
  ∀ (i : Instr) (s t : State), exec i s = .next t → s.dead = true → t.dead = true ∨ i = .reset

/-- R140, R215: a step gives the host at most one response; with a response the block is IDLE, and an
error response leaves it DEAD. -/
def Obligations.AtMostOneResponseAStep : Prop :=
  ∀ s t : State, step s = .next t →
    t.resps = s.resps ∨
    (∃ m, t.resps = s.resps ++ [.message m] ∧ t.status = .idle) ∨
    (∃ k e, t.resps = s.resps ++ [.error k e] ∧ t.status = .idle ∧ t.dead = true)

/-- R201, R202: a live block says EndOfStream only at a frame boundary with every byte decoded; it
never hides a truncation. -/
def Obligations.EndOfStreamNeverHidesATruncation : Prop :=
  ∀ (s t : State) (e : Option ErrCode), s.Inv → s.dead = false → step s = .next t →
    t.resps = s.resps ++ [.error .endOfStream e] → s.AtBoundary ∧ s.r = s.w ∧ s.msgq = []

/-- R180, R218: with legal parameters and a source that keeps its contract, no panic happens. -/
def Obligations.NoPanicUnderTheSourceContract : Prop :=
  ∀ s t : State, s.Inv → (∀ x ∈ s.srcq, InContract x s.params.cap) →
    step s = .next t → t.status = .fault → s.status = .fault ∧ t.pcause = s.pcause

/-- R63: the bytes of RBUF outside `[R, W)` influence nothing. Two states that differ only there step
to states that differ only there, or stop alike. That it also holds with W above CAP, where RBUF has no
bytes, rests on the model's choice (log 23). -/
def Obligations.StaleBufferBytesInfluenceNothing : Prop :=
  ∀ (s : State) (m : Memory),
    (∀ a, s.r ≤ a → a < s.w → Memory.byteAt m s.resets a = s.byteAt a) →
    (∀ t, step s = .next t →
      ∃ m', step { s with rbuf := m } = .next { t with rbuf := m' } ∧
        ∀ a, t.r ≤ a → a < t.w → Memory.byteAt m' t.resets a = t.byteAt a) ∧
    (∀ f, step s = .fault f → step { s with rbuf := m } = .fault f)

/-- R131 at the block: the bytes of `MSG(id, channel, data)`, unread at a frame boundary, become
exactly that message in the queue in at most 21 steps; the frame's bytes are consumed, no other, and
the parser is at a frame boundary again. -/
def Obligations.FrameRoundTrip : Prop :=
  ∀ (s : State) (m : Message), s.Parsing → s.AtBoundary → s.Buffered (msgEnc m) →
    m.data.length ≤ s.params.maxMessageSize → (bodyEnc m).length < 2 ^ 64 →
    ∃ k ≤ 21, s.After k { s with r := s.r + (msgEnc m).length, msgq := [m] }

/-- R100, R131, R156 (a): a frame that fits the buffer is delivered by one READ_NEXT whatever the
source's chunking; the block is then IDLE at a frame boundary with an empty buffer, and the source has
been asked for nothing more. -/
def Obligations.FrameIsDeliveredWhateverTheChunking : Prop :=
  ∀ (s : State) (m : Message) (early : Bool) (hs : List HostEvent) (chunks : List (List Byte))
    (rest : List SrcResp),
    s.params.Legal → s.status = .idle → s.loc = .top → s.dead = false → s.errk = none →
    s.msgq = [] → s.AtBoundary → s.r = 0 → s.w = 0 →
    s.hostq = ⟨0, early⟩ :: hs → (∀ ev ∈ hs, ev.whileBusy = false) →
    (∀ chunk ∈ chunks, chunk ≠ []) → chunks.flatten = msgEnc m →
    (msgEnc m).length ≤ s.params.cap → m.data.length ≤ s.params.maxMessageSize →
    (bodyEnc m).length < 2 ^ 64 →
    s.srcq = chunks.map (fun chunk => ⟨chunk, 0, 0⟩) ++ rest →
    ∃ (k : Nat) (t : State), s.After k t ∧ t.resps = s.resps ++ [.message m] ∧ t.status = .idle ∧
      t.dead = false ∧ t.errk = none ∧ t.msgq = [] ∧ t.AtBoundary ∧ t.r = 0 ∧ t.w = 0 ∧
      t.hostq = hs ∧ t.srcq = rest

/-- R150: a READ_NEXT with a finite source ends, or comes to wait for a response that never arrives.
(An endless run of zero-length frames is an endless source, R253.) -/
def Obligations.ReadNextEndsOrWaitsForTheSource : Prop :=
  ∀ s : State, s.Inv → s.status = .busy → s.Orderly →
    ∃ (k : Nat) (t : State), s.After k t ∧
      (t.status ≠ .busy ∨ (t.loc = .srcWait ∧ t.srcq = []))
end

