-- ==== Sys2Proof/Laws/Codec.lean ====
section
/-! SUPPORT. Bytes, groups and flags as numbers; the fields of a header as numbers. -/

namespace Sys2Proof

@[simp] theorem flagOf_byteOf (c : Bool) (g : Group) : flagOf (byteOf c g) = c := by
  cases c <;> revert g <;> decide

@[simp] theorem groupOf_byteOf (c : Bool) (g : Group) : groupOf (byteOf c g) = g := by
  cases c <;> revert g <;> decide

@[simp] theorem byteOf_flagOf_groupOf (b : Byte) : byteOf (flagOf b) (groupOf b) = b := by
  revert b; decide

/-- "`b < 0x80` ... the same as `b[7] = 0`" (R111). -/
theorem flagOf_eq_decide (b : Byte) : flagOf b = decide (128 ≤ b.toNat) := by
  revert b; decide

theorem groupOf_toNat (b : Byte) : (groupOf b).toNat = b.toNat % 128 := by
  revert b; decide

namespace Machine

@[simp] theorem groupVal_toNat (g : Group) : (groupVal g).toNat = g.toNat := by
  simp only [groupVal, BitVec.toNat_setWidth]
  exact Nat.mod_eq_of_lt (lt_trans g.isLt (by decide))

/-- The sum of R101, as a number. -/
theorem accumulate_toNat (v f : Word) (g : Group) :
    (v + contribution g f).toNat = (v.toNat + g.toNat * f.toNat) % 2 ^ 64 := by
  simp [contribution, BitVec.toNat_add, BitVec.toNat_mul, Nat.add_mod]

@[simp] theorem headerId_toNat (h : Word) : (headerId h).toNat = h.toNat / 16 := by
  simp only [headerId, BitVec.extractLsb'_toNat, Nat.shiftRight_eq_div_pow]
  have := h.isLt
  exact Nat.mod_eq_of_lt (by omega)

@[simp] theorem headerChannel_toNat (h : Word) : (headerChannel h).toNat = h.toNat % 16 := by
  simp [headerChannel, BitVec.extractLsb'_toNat]

end Machine

end Sys2Proof
end

