-- ==== Sys2Proof/Laws/Memory.lean ====
section
/-! SUPPORT. The byte store: what a read gives after each operation, and that each keeps the
canonical form. -/

namespace Sys2Proof.Machine

@[simp] theorem Memory.read_nil (i : Nat) : Memory.read [] i = none := rfl

theorem Memory.read_cons (a : Nat) (b : Byte) (m : Memory) (i : Nat) :
    Memory.read ((a, b) :: m) i = if a = i then some b else Memory.read m i := rfl

/-- One lemma for a read after a put. -/
theorem Memory.read_put (m : Memory) (i j : Nat) (b : Byte) :
    Memory.read (Memory.put m i b) j = if j = i then some b else Memory.read m j := by
  induction m with
  | nil => simp [Memory.put, Memory.read_cons, eq_comm]
  | cons cell rest ih =>
    obtain ⟨a, c⟩ := cell
    simp only [Memory.put]
    split
    · simp [Memory.read_cons, eq_comm]
    · split
      · subst_vars; simp only [Memory.read_cons]; split <;> simp_all [eq_comm]
      · simp only [Memory.read_cons, ih]
        by_cases hj : a = j
        · simp [hj, show j ≠ i by omega]
        · simp [hj]

/-- One lemma for the value of a byte after a put. -/
theorem Memory.byteAt_put (m : Memory) (n i j : Nat) (b : Byte) :
    Memory.byteAt (Memory.put m i b) n j = if j = i then b else Memory.byteAt m n j := by
  simp only [Memory.byteAt, Memory.read_put]
  by_cases h : j = i <;> simp [h]

theorem Memory.byteAt_of_read {m : Memory} {i : Nat} {b : Byte} (n : Nat)
    (h : Memory.read m i = some b) : Memory.byteAt m n i = b := by
  simp [Memory.byteAt, h]

/-- A read after a MemWrite: the written bytes from `a` on, every other byte as before. -/
theorem Memory.read_write (m : Memory) (a j : Nat) (v : List Byte) :
    Memory.read (Memory.write m a v) j =
      if a ≤ j ∧ j < a + v.length then v[j - a]? else Memory.read m j := by
  induction v generalizing m a with
  | nil => simp [Memory.write]
  | cons b rest ih =>
    simp only [Memory.write, ih, Memory.read_put, List.length_cons]
    by_cases h1 : a + 1 ≤ j ∧ j < a + 1 + rest.length
    · have h2 : a ≤ j ∧ j < a + (rest.length + 1) := by omega
      obtain ⟨d, hd⟩ : ∃ d, j - a = d + 1 := ⟨j - a - 1, by omega⟩
      have : j - (a + 1) = d := by omega
      simp [h1, h2, hd, this]
    · by_cases h3 : j = a
      · simp [h3]
      · have h2 : ¬ (a ≤ j ∧ j < a + (rest.length + 1)) := by omega
        rw [if_neg h1, if_neg h3, if_neg h2]

/-- The value of a byte after a MemWrite: the written bytes from `a` on, every other byte as before. -/
theorem Memory.byteAt_write (m : Memory) (n a j : Nat) (v : List Byte) :
    Memory.byteAt (Memory.write m a v) n j =
      if h : a ≤ j ∧ j < a + v.length then v[j - a] else Memory.byteAt m n j := by
  simp only [Memory.byteAt, Memory.read_write]
  by_cases h : a ≤ j ∧ j < a + v.length
  · have hlt : j - a < v.length := by omega
    simp [h, hlt]
  · simp [h]

/-- The value of a byte after the loop of COMPACT: place `i + k` holds what place `r + i + k` held, every
other place is as before. The move goes downwards, so no byte is overwritten before it is read. -/
theorem Memory.byteAt_moveDown (m : Memory) (n r i k j : Nat) :
    Memory.byteAt (Memory.moveDown m n r i k) n j =
      if i ≤ j ∧ j < i + k then Memory.byteAt m n (r + j) else Memory.byteAt m n j := by
  induction k generalizing m i with
  | zero => simp [Memory.moveDown, show ¬ (i ≤ j ∧ j < i) by omega]
  | succ k ih =>
    simp only [Memory.moveDown, ih, Memory.byteAt_put]
    by_cases h1 : i + 1 ≤ j ∧ j < i + 1 + k
    · have h2 : i ≤ j ∧ j < i + (k + 1) := by omega
      have h3 : r + j ≠ i := by omega
      simp [h1, h2, h3]
    · by_cases h3 : j = i
      · simp [h3]
      · have h2 : ¬ (i ≤ j ∧ j < i + (k + 1)) := by omega
        rw [if_neg h1, if_neg h3, if_neg h2]

/-- Which bytes are listed after the loop of COMPACT: those it wrote, and those listed before. -/
theorem Memory.isSome_read_moveDown (m : Memory) (n r i k j : Nat) :
    (Memory.read (Memory.moveDown m n r i k) j).isSome =
      (decide (i ≤ j ∧ j < i + k) || (Memory.read m j).isSome) := by
  induction k generalizing m i with
  | zero => simp [Memory.moveDown, show ¬ (i ≤ j ∧ j < i) by omega]
  | succ k ih =>
    simp only [Memory.moveDown, ih, Memory.read_put]
    by_cases h3 : j = i
    · simp [h3]
    · have h2 : (i + 1 ≤ j ∧ j < i + 1 + k) ↔ (i ≤ j ∧ j < i + (k + 1)) := by omega
      rw [if_neg h3, decide_eq_decide.2 h2]

/-- The canonical form, as one comparison of a head with every later address. -/
theorem Memory.wf_cons (a : Nat) (b : Byte) (m : Memory) :
    Memory.wf ((a, b) :: m) = true ↔ (∀ cell ∈ m, a < cell.1) ∧ Memory.wf m = true := by
  induction m generalizing a b with
  | nil => simp [Memory.wf]
  | cons cell rest ih =>
    obtain ⟨a', b'⟩ := cell
    simp only [Memory.wf, Bool.and_eq_true, decide_eq_true_eq, ih, List.mem_cons, forall_eq_or_imp]
    constructor
    · rintro ⟨h, h', h''⟩
      exact ⟨⟨h, fun c hc => lt_trans h (h' c hc)⟩, h', h''⟩
    · rintro ⟨⟨h, -⟩, h', h''⟩
      exact ⟨h, h', h''⟩

theorem Memory.mem_put {m : Memory} {i : Nat} {b : Byte} {cell : Host.Cell}
    (h : cell ∈ Memory.put m i b) : cell = (i, b) ∨ cell ∈ m := by
  induction m with
  | nil => simpa [Memory.put] using h
  | cons head rest ih =>
    obtain ⟨a, c⟩ := head
    simp only [Memory.put] at h
    split at h
    · simpa using h
    · split at h
      · rcases List.mem_cons.1 h with h | h
        · exact .inl h
        · exact .inr (List.mem_cons_of_mem _ h)
      · rcases List.mem_cons.1 h with h | h
        · exact .inr (h ▸ List.mem_cons_self)
        · exact (ih h).imp id (List.mem_cons_of_mem _)

theorem Memory.put_wf {m : Memory} (i : Nat) (b : Byte) (h : Memory.wf m = true) :
    Memory.wf (Memory.put m i b) = true := by
  induction m with
  | nil => rfl
  | cons head rest ih =>
    obtain ⟨a, c⟩ := head
    obtain ⟨hlt, hrest⟩ := (Memory.wf_cons a c rest).1 h
    simp only [Memory.put]
    split
    · refine (Memory.wf_cons _ _ _).2 ⟨?_, h⟩
      rintro cell (_ | ⟨_, hc⟩)
      · assumption
      · exact lt_trans (by assumption) (hlt cell hc)
    · split
      · subst_vars; exact (Memory.wf_cons _ _ _).2 ⟨hlt, hrest⟩
      · refine (Memory.wf_cons _ _ _).2 ⟨fun cell hc => ?_, ih hrest⟩
        rcases Memory.mem_put hc with rfl | hc
        · simp only; omega
        · exact hlt cell hc

theorem Memory.write_wf {m : Memory} (a : Nat) (v : List Byte) (h : Memory.wf m = true) :
    Memory.wf (Memory.write m a v) = true := by
  induction v generalizing m a with
  | nil => exact h
  | cons b rest ih => exact ih (a + 1) (Memory.put_wf a b h)

theorem Memory.moveDown_wf {m : Memory} (n r i k : Nat) (h : Memory.wf m = true) :
    Memory.wf (Memory.moveDown m n r i k) = true := by
  induction k generalizing m i with
  | zero => exact h
  | succ k ih => exact ih (i + 1) (Memory.put_wf i _ h)

end Sys2Proof.Machine
end

