-- ==== Sys2Proof/Laws/State.lean ====
section
/-! SUPPORT. What every shared update of State does to every field, one lemma each. -/

namespace Sys2Proof.Machine

@[simp] theorem State.receive_params (s : State) (data : List Byte) : (s.receive data).params = s.params := rfl
@[simp] theorem State.receive_val (s : State) (data : List Byte) : (s.receive data).val = s.val := rfl
@[simp] theorem State.receive_fac (s : State) (data : List Byte) : (s.receive data).fac = s.fac := rfl
@[simp] theorem State.receive_cnt (s : State) (data : List Byte) : (s.receive data).cnt = s.cnt := rfl
@[simp] theorem State.receive_blen (s : State) (data : List Byte) : (s.receive data).blen = s.blen := rfl
@[simp] theorem State.receive_hdr (s : State) (data : List Byte) : (s.receive data).hdr = s.hdr := rfl
@[simp] theorem State.receive_pmiss (s : State) (data : List Byte) : (s.receive data).pmiss = s.pmiss := rfl
@[simp] theorem State.receive_r (s : State) (data : List Byte) : (s.receive data).r = s.r := rfl
@[simp] theorem State.receive_w (s : State) (data : List Byte) : (s.receive data).w = s.index (s.w + data.length) := rfl
@[simp] theorem State.receive_phase (s : State) (data : List Byte) : (s.receive data).phase = s.phase := rfl
@[simp] theorem State.receive_errk (s : State) (data : List Byte) : (s.receive data).errk = s.errk := rfl
@[simp] theorem State.receive_erre (s : State) (data : List Byte) : (s.receive data).erre = s.erre := rfl
@[simp] theorem State.receive_dead (s : State) (data : List Byte) : (s.receive data).dead = s.dead := rfl
@[simp] theorem State.receive_empties (s : State) (data : List Byte) : (s.receive data).empties = s.empties := rfl
@[simp] theorem State.receive_rbuf (s : State) (data : List Byte) : (s.receive data).rbuf = Memory.write s.rbuf s.w data := rfl
@[simp] theorem State.receive_pay (s : State) (data : List Byte) : (s.receive data).pay = s.pay := rfl
@[simp] theorem State.receive_msgq (s : State) (data : List Byte) : (s.receive data).msgq = s.msgq := rfl
@[simp] theorem State.receive_status (s : State) (data : List Byte) : (s.receive data).status = s.status := rfl
@[simp] theorem State.receive_pcause (s : State) (data : List Byte) : (s.receive data).pcause = s.pcause := rfl
@[simp] theorem State.receive_resets (s : State) (data : List Byte) : (s.receive data).resets = s.resets := rfl
@[simp] theorem State.receive_loc (s : State) (data : List Byte) : (s.receive data).loc = s.loc := rfl
@[simp] theorem State.receive_hostq (s : State) (data : List Byte) : (s.receive data).hostq = s.hostq := rfl
@[simp] theorem State.receive_srcq (s : State) (data : List Byte) : (s.receive data).srcq = s.srcq := rfl
@[simp] theorem State.receive_resps (s : State) (data : List Byte) : (s.receive data).resps = s.resps := rfl

@[simp] theorem State.compacted_params (s : State) : s.compacted.params = s.params := rfl
@[simp] theorem State.compacted_val (s : State) : s.compacted.val = s.val := rfl
@[simp] theorem State.compacted_fac (s : State) : s.compacted.fac = s.fac := rfl
@[simp] theorem State.compacted_cnt (s : State) : s.compacted.cnt = s.cnt := rfl
@[simp] theorem State.compacted_blen (s : State) : s.compacted.blen = s.blen := rfl
@[simp] theorem State.compacted_hdr (s : State) : s.compacted.hdr = s.hdr := rfl
@[simp] theorem State.compacted_pmiss (s : State) : s.compacted.pmiss = s.pmiss := rfl
@[simp] theorem State.compacted_r (s : State) : s.compacted.r = 0 := rfl
@[simp] theorem State.compacted_w (s : State) : s.compacted.w = s.index (s.w - s.r) := rfl
@[simp] theorem State.compacted_phase (s : State) : s.compacted.phase = s.phase := rfl
@[simp] theorem State.compacted_errk (s : State) : s.compacted.errk = s.errk := rfl
@[simp] theorem State.compacted_erre (s : State) : s.compacted.erre = s.erre := rfl
@[simp] theorem State.compacted_dead (s : State) : s.compacted.dead = s.dead := rfl
@[simp] theorem State.compacted_empties (s : State) : s.compacted.empties = s.empties := rfl
@[simp] theorem State.compacted_rbuf (s : State) : s.compacted.rbuf = Memory.moveDown s.rbuf s.resets s.r 0 (s.w - s.r) := rfl
@[simp] theorem State.compacted_pay (s : State) : s.compacted.pay = s.pay := rfl
@[simp] theorem State.compacted_msgq (s : State) : s.compacted.msgq = s.msgq := rfl
@[simp] theorem State.compacted_status (s : State) : s.compacted.status = s.status := rfl
@[simp] theorem State.compacted_pcause (s : State) : s.compacted.pcause = s.pcause := rfl
@[simp] theorem State.compacted_resets (s : State) : s.compacted.resets = s.resets := rfl
@[simp] theorem State.compacted_loc (s : State) : s.compacted.loc = s.loc := rfl
@[simp] theorem State.compacted_hostq (s : State) : s.compacted.hostq = s.hostq := rfl
@[simp] theorem State.compacted_srcq (s : State) : s.compacted.srcq = s.srcq := rfl
@[simp] theorem State.compacted_resps (s : State) : s.compacted.resps = s.resps := rfl

@[simp] theorem State.respond_params (s : State) (x : Response) : (s.respond x).params = s.params := rfl
@[simp] theorem State.respond_val (s : State) (x : Response) : (s.respond x).val = s.val := rfl
@[simp] theorem State.respond_fac (s : State) (x : Response) : (s.respond x).fac = s.fac := rfl
@[simp] theorem State.respond_cnt (s : State) (x : Response) : (s.respond x).cnt = s.cnt := rfl
@[simp] theorem State.respond_blen (s : State) (x : Response) : (s.respond x).blen = s.blen := rfl
@[simp] theorem State.respond_hdr (s : State) (x : Response) : (s.respond x).hdr = s.hdr := rfl
@[simp] theorem State.respond_pmiss (s : State) (x : Response) : (s.respond x).pmiss = s.pmiss := rfl
@[simp] theorem State.respond_r (s : State) (x : Response) : (s.respond x).r = s.r := rfl
@[simp] theorem State.respond_w (s : State) (x : Response) : (s.respond x).w = s.w := rfl
@[simp] theorem State.respond_phase (s : State) (x : Response) : (s.respond x).phase = s.phase := rfl
@[simp] theorem State.respond_errk (s : State) (x : Response) : (s.respond x).errk = s.errk := rfl
@[simp] theorem State.respond_erre (s : State) (x : Response) : (s.respond x).erre = s.erre := rfl
@[simp] theorem State.respond_dead (s : State) (x : Response) : (s.respond x).dead = s.dead := rfl
@[simp] theorem State.respond_empties (s : State) (x : Response) : (s.respond x).empties = s.empties := rfl
@[simp] theorem State.respond_rbuf (s : State) (x : Response) : (s.respond x).rbuf = s.rbuf := rfl
@[simp] theorem State.respond_pay (s : State) (x : Response) : (s.respond x).pay = s.pay := rfl
@[simp] theorem State.respond_msgq (s : State) (x : Response) : (s.respond x).msgq = s.msgq := rfl
@[simp] theorem State.respond_status (s : State) (x : Response) : (s.respond x).status = .idle := rfl
@[simp] theorem State.respond_pcause (s : State) (x : Response) : (s.respond x).pcause = s.pcause := rfl
@[simp] theorem State.respond_resets (s : State) (x : Response) : (s.respond x).resets = s.resets := rfl
@[simp] theorem State.respond_loc (s : State) (x : Response) : (s.respond x).loc = .top := rfl
@[simp] theorem State.respond_hostq (s : State) (x : Response) : (s.respond x).hostq = s.hostq := rfl
@[simp] theorem State.respond_srcq (s : State) (x : Response) : (s.respond x).srcq = s.srcq := rfl
@[simp] theorem State.respond_resps (s : State) (x : Response) : (s.respond x).resps = s.resps ++ [x] := rfl

@[simp] theorem State.raise_params (s : State) (k : ErrKind) (e : Option ErrCode) : (s.raise k e).params = s.params := rfl
@[simp] theorem State.raise_val (s : State) (k : ErrKind) (e : Option ErrCode) : (s.raise k e).val = s.val := rfl
@[simp] theorem State.raise_fac (s : State) (k : ErrKind) (e : Option ErrCode) : (s.raise k e).fac = s.fac := rfl
@[simp] theorem State.raise_cnt (s : State) (k : ErrKind) (e : Option ErrCode) : (s.raise k e).cnt = s.cnt := rfl
@[simp] theorem State.raise_blen (s : State) (k : ErrKind) (e : Option ErrCode) : (s.raise k e).blen = s.blen := rfl
@[simp] theorem State.raise_hdr (s : State) (k : ErrKind) (e : Option ErrCode) : (s.raise k e).hdr = s.hdr := rfl
@[simp] theorem State.raise_pmiss (s : State) (k : ErrKind) (e : Option ErrCode) : (s.raise k e).pmiss = s.pmiss := rfl
@[simp] theorem State.raise_r (s : State) (k : ErrKind) (e : Option ErrCode) : (s.raise k e).r = s.r := rfl
@[simp] theorem State.raise_w (s : State) (k : ErrKind) (e : Option ErrCode) : (s.raise k e).w = s.w := rfl
@[simp] theorem State.raise_phase (s : State) (k : ErrKind) (e : Option ErrCode) : (s.raise k e).phase = s.phase := rfl
@[simp] theorem State.raise_errk (s : State) (k : ErrKind) (e : Option ErrCode) : (s.raise k e).errk = s.errk := rfl
@[simp] theorem State.raise_erre (s : State) (k : ErrKind) (e : Option ErrCode) : (s.raise k e).erre = s.erre := rfl
@[simp] theorem State.raise_dead (s : State) (k : ErrKind) (e : Option ErrCode) : (s.raise k e).dead = true := rfl
@[simp] theorem State.raise_empties (s : State) (k : ErrKind) (e : Option ErrCode) : (s.raise k e).empties = s.empties := rfl
@[simp] theorem State.raise_rbuf (s : State) (k : ErrKind) (e : Option ErrCode) : (s.raise k e).rbuf = s.rbuf := rfl
@[simp] theorem State.raise_pay (s : State) (k : ErrKind) (e : Option ErrCode) : (s.raise k e).pay = s.pay := rfl
@[simp] theorem State.raise_msgq (s : State) (k : ErrKind) (e : Option ErrCode) : (s.raise k e).msgq = s.msgq := rfl
@[simp] theorem State.raise_status (s : State) (k : ErrKind) (e : Option ErrCode) : (s.raise k e).status = .idle := rfl
@[simp] theorem State.raise_pcause (s : State) (k : ErrKind) (e : Option ErrCode) : (s.raise k e).pcause = s.pcause := rfl
@[simp] theorem State.raise_resets (s : State) (k : ErrKind) (e : Option ErrCode) : (s.raise k e).resets = s.resets := rfl
@[simp] theorem State.raise_loc (s : State) (k : ErrKind) (e : Option ErrCode) : (s.raise k e).loc = .top := rfl
@[simp] theorem State.raise_hostq (s : State) (k : ErrKind) (e : Option ErrCode) : (s.raise k e).hostq = s.hostq := rfl
@[simp] theorem State.raise_srcq (s : State) (k : ErrKind) (e : Option ErrCode) : (s.raise k e).srcq = s.srcq := rfl
@[simp] theorem State.raise_resps (s : State) (k : ErrKind) (e : Option ErrCode) : (s.raise k e).resps = s.resps ++ [.error k e] := rfl

@[simp] theorem State.panic_params (s : State) (c : PanicCause) : (s.panic c).params = s.params := rfl
@[simp] theorem State.panic_val (s : State) (c : PanicCause) : (s.panic c).val = s.val := rfl
@[simp] theorem State.panic_fac (s : State) (c : PanicCause) : (s.panic c).fac = s.fac := rfl
@[simp] theorem State.panic_cnt (s : State) (c : PanicCause) : (s.panic c).cnt = s.cnt := rfl
@[simp] theorem State.panic_blen (s : State) (c : PanicCause) : (s.panic c).blen = s.blen := rfl
@[simp] theorem State.panic_hdr (s : State) (c : PanicCause) : (s.panic c).hdr = s.hdr := rfl
@[simp] theorem State.panic_pmiss (s : State) (c : PanicCause) : (s.panic c).pmiss = s.pmiss := rfl
@[simp] theorem State.panic_r (s : State) (c : PanicCause) : (s.panic c).r = s.r := rfl
@[simp] theorem State.panic_w (s : State) (c : PanicCause) : (s.panic c).w = s.w := rfl
@[simp] theorem State.panic_phase (s : State) (c : PanicCause) : (s.panic c).phase = s.phase := rfl
@[simp] theorem State.panic_errk (s : State) (c : PanicCause) : (s.panic c).errk = s.errk := rfl
@[simp] theorem State.panic_erre (s : State) (c : PanicCause) : (s.panic c).erre = s.erre := rfl
@[simp] theorem State.panic_dead (s : State) (c : PanicCause) : (s.panic c).dead = s.dead := rfl
@[simp] theorem State.panic_empties (s : State) (c : PanicCause) : (s.panic c).empties = s.empties := rfl
@[simp] theorem State.panic_rbuf (s : State) (c : PanicCause) : (s.panic c).rbuf = s.rbuf := rfl
@[simp] theorem State.panic_pay (s : State) (c : PanicCause) : (s.panic c).pay = s.pay := rfl
@[simp] theorem State.panic_msgq (s : State) (c : PanicCause) : (s.panic c).msgq = s.msgq := rfl
@[simp] theorem State.panic_status (s : State) (c : PanicCause) : (s.panic c).status = .fault := rfl
@[simp] theorem State.panic_pcause (s : State) (c : PanicCause) : (s.panic c).pcause = c := rfl
@[simp] theorem State.panic_resets (s : State) (c : PanicCause) : (s.panic c).resets = s.resets := rfl
@[simp] theorem State.panic_loc (s : State) (c : PanicCause) : (s.panic c).loc = .top := rfl
@[simp] theorem State.panic_hostq (s : State) (c : PanicCause) : (s.panic c).hostq = s.hostq := rfl
@[simp] theorem State.panic_srcq (s : State) (c : PanicCause) : (s.panic c).srcq = s.srcq := rfl
@[simp] theorem State.panic_resps (s : State) (c : PanicCause) : (s.panic c).resps = s.resps := rfl

@[simp] theorem State.accReset_params (s : State) : s.accReset.params = s.params := rfl
@[simp] theorem State.accReset_val (s : State) : s.accReset.val = 0 := rfl
@[simp] theorem State.accReset_fac (s : State) : s.accReset.fac = 1 := rfl
@[simp] theorem State.accReset_cnt (s : State) : s.accReset.cnt = 0 := rfl
@[simp] theorem State.accReset_blen (s : State) : s.accReset.blen = s.blen := rfl
@[simp] theorem State.accReset_hdr (s : State) : s.accReset.hdr = s.hdr := rfl
@[simp] theorem State.accReset_pmiss (s : State) : s.accReset.pmiss = s.pmiss := rfl
@[simp] theorem State.accReset_r (s : State) : s.accReset.r = s.r := rfl
@[simp] theorem State.accReset_w (s : State) : s.accReset.w = s.w := rfl
@[simp] theorem State.accReset_phase (s : State) : s.accReset.phase = s.phase := rfl
@[simp] theorem State.accReset_errk (s : State) : s.accReset.errk = s.errk := rfl
@[simp] theorem State.accReset_erre (s : State) : s.accReset.erre = s.erre := rfl
@[simp] theorem State.accReset_dead (s : State) : s.accReset.dead = s.dead := rfl
@[simp] theorem State.accReset_empties (s : State) : s.accReset.empties = s.empties := rfl
@[simp] theorem State.accReset_rbuf (s : State) : s.accReset.rbuf = s.rbuf := rfl
@[simp] theorem State.accReset_pay (s : State) : s.accReset.pay = s.pay := rfl
@[simp] theorem State.accReset_msgq (s : State) : s.accReset.msgq = s.msgq := rfl
@[simp] theorem State.accReset_status (s : State) : s.accReset.status = s.status := rfl
@[simp] theorem State.accReset_pcause (s : State) : s.accReset.pcause = s.pcause := rfl
@[simp] theorem State.accReset_resets (s : State) : s.accReset.resets = s.resets := rfl
@[simp] theorem State.accReset_loc (s : State) : s.accReset.loc = s.loc := rfl
@[simp] theorem State.accReset_hostq (s : State) : s.accReset.hostq = s.hostq := rfl
@[simp] theorem State.accReset_srcq (s : State) : s.accReset.srcq = s.srcq := rfl
@[simp] theorem State.accReset_resps (s : State) : s.accReset.resps = s.resps := rfl

@[simp] theorem State.vacc_params (s : State) (g : Group) : (s.vacc g).params = s.params := rfl
@[simp] theorem State.vacc_val (s : State) (g : Group) : (s.vacc g).val = s.val + contribution g s.fac := rfl
@[simp] theorem State.vacc_fac (s : State) (g : Group) : (s.vacc g).fac = s.fac := rfl
@[simp] theorem State.vacc_cnt (s : State) (g : Group) : (s.vacc g).cnt = s.cnt + 1 := rfl
@[simp] theorem State.vacc_blen (s : State) (g : Group) : (s.vacc g).blen = s.blen := rfl
@[simp] theorem State.vacc_hdr (s : State) (g : Group) : (s.vacc g).hdr = s.hdr := rfl
@[simp] theorem State.vacc_pmiss (s : State) (g : Group) : (s.vacc g).pmiss = s.pmiss := rfl
@[simp] theorem State.vacc_r (s : State) (g : Group) : (s.vacc g).r = s.r := rfl
@[simp] theorem State.vacc_w (s : State) (g : Group) : (s.vacc g).w = s.w := rfl
@[simp] theorem State.vacc_phase (s : State) (g : Group) : (s.vacc g).phase = s.phase := rfl
@[simp] theorem State.vacc_errk (s : State) (g : Group) : (s.vacc g).errk = s.errk := rfl
@[simp] theorem State.vacc_erre (s : State) (g : Group) : (s.vacc g).erre = s.erre := rfl
@[simp] theorem State.vacc_dead (s : State) (g : Group) : (s.vacc g).dead = s.dead := rfl
@[simp] theorem State.vacc_empties (s : State) (g : Group) : (s.vacc g).empties = s.empties := rfl
@[simp] theorem State.vacc_rbuf (s : State) (g : Group) : (s.vacc g).rbuf = s.rbuf := rfl
@[simp] theorem State.vacc_pay (s : State) (g : Group) : (s.vacc g).pay = s.pay := rfl
@[simp] theorem State.vacc_msgq (s : State) (g : Group) : (s.vacc g).msgq = s.msgq := rfl
@[simp] theorem State.vacc_status (s : State) (g : Group) : (s.vacc g).status = s.status := rfl
@[simp] theorem State.vacc_pcause (s : State) (g : Group) : (s.vacc g).pcause = s.pcause := rfl
@[simp] theorem State.vacc_resets (s : State) (g : Group) : (s.vacc g).resets = s.resets := rfl
@[simp] theorem State.vacc_loc (s : State) (g : Group) : (s.vacc g).loc = s.loc := rfl
@[simp] theorem State.vacc_hostq (s : State) (g : Group) : (s.vacc g).hostq = s.hostq := rfl
@[simp] theorem State.vacc_srcq (s : State) (g : Group) : (s.vacc g).srcq = s.srcq := rfl
@[simp] theorem State.vacc_resps (s : State) (g : Group) : (s.vacc g).resps = s.resps := rfl

@[simp] theorem State.vbT_params (s : State) (g : Group) : (s.vbT g).params = s.params := rfl
@[simp] theorem State.vbT_val (s : State) (g : Group) : (s.vbT g).val = s.val + contribution g s.fac := rfl
@[simp] theorem State.vbT_fac (s : State) (g : Group) : (s.vbT g).fac = s.fac := rfl
@[simp] theorem State.vbT_cnt (s : State) (g : Group) : (s.vbT g).cnt = s.cnt + 1 := rfl
@[simp] theorem State.vbT_blen (s : State) (g : Group) : (s.vbT g).blen = s.blen := rfl
@[simp] theorem State.vbT_hdr (s : State) (g : Group) : (s.vbT g).hdr = s.hdr := rfl
@[simp] theorem State.vbT_pmiss (s : State) (g : Group) : (s.vbT g).pmiss = s.pmiss := rfl
@[simp] theorem State.vbT_r (s : State) (g : Group) : (s.vbT g).r = s.index (s.r + 1) := rfl
@[simp] theorem State.vbT_w (s : State) (g : Group) : (s.vbT g).w = s.w := rfl
@[simp] theorem State.vbT_phase (s : State) (g : Group) : (s.vbT g).phase = s.phase := rfl
@[simp] theorem State.vbT_errk (s : State) (g : Group) : (s.vbT g).errk = s.errk := rfl
@[simp] theorem State.vbT_erre (s : State) (g : Group) : (s.vbT g).erre = s.erre := rfl
@[simp] theorem State.vbT_dead (s : State) (g : Group) : (s.vbT g).dead = s.dead := rfl
@[simp] theorem State.vbT_empties (s : State) (g : Group) : (s.vbT g).empties = s.empties := rfl
@[simp] theorem State.vbT_rbuf (s : State) (g : Group) : (s.vbT g).rbuf = s.rbuf := rfl
@[simp] theorem State.vbT_pay (s : State) (g : Group) : (s.vbT g).pay = s.pay := rfl
@[simp] theorem State.vbT_msgq (s : State) (g : Group) : (s.vbT g).msgq = s.msgq := rfl
@[simp] theorem State.vbT_status (s : State) (g : Group) : (s.vbT g).status = s.status := rfl
@[simp] theorem State.vbT_pcause (s : State) (g : Group) : (s.vbT g).pcause = s.pcause := rfl
@[simp] theorem State.vbT_resets (s : State) (g : Group) : (s.vbT g).resets = s.resets := rfl
@[simp] theorem State.vbT_loc (s : State) (g : Group) : (s.vbT g).loc = s.loc := rfl
@[simp] theorem State.vbT_hostq (s : State) (g : Group) : (s.vbT g).hostq = s.hostq := rfl
@[simp] theorem State.vbT_srcq (s : State) (g : Group) : (s.vbT g).srcq = s.srcq := rfl
@[simp] theorem State.vbT_resps (s : State) (g : Group) : (s.vbT g).resps = s.resps := rfl

@[simp] theorem State.beginPayload_params (s : State) (len : Word) : (s.beginPayload len).params = s.params := rfl
@[simp] theorem State.beginPayload_val (s : State) (len : Word) : (s.beginPayload len).val = 0 := rfl
@[simp] theorem State.beginPayload_fac (s : State) (len : Word) : (s.beginPayload len).fac = 1 := rfl
@[simp] theorem State.beginPayload_cnt (s : State) (len : Word) : (s.beginPayload len).cnt = 0 := rfl
@[simp] theorem State.beginPayload_blen (s : State) (len : Word) : (s.beginPayload len).blen = len := rfl
@[simp] theorem State.beginPayload_hdr (s : State) (len : Word) : (s.beginPayload len).hdr = s.hdr := rfl
@[simp] theorem State.beginPayload_pmiss (s : State) (len : Word) : (s.beginPayload len).pmiss = len := rfl
@[simp] theorem State.beginPayload_r (s : State) (len : Word) : (s.beginPayload len).r = s.r := rfl
@[simp] theorem State.beginPayload_w (s : State) (len : Word) : (s.beginPayload len).w = s.w := rfl
@[simp] theorem State.beginPayload_phase (s : State) (len : Word) : (s.beginPayload len).phase = .awaitPayload := rfl
@[simp] theorem State.beginPayload_errk (s : State) (len : Word) : (s.beginPayload len).errk = s.errk := rfl
@[simp] theorem State.beginPayload_erre (s : State) (len : Word) : (s.beginPayload len).erre = s.erre := rfl
@[simp] theorem State.beginPayload_dead (s : State) (len : Word) : (s.beginPayload len).dead = s.dead := rfl
@[simp] theorem State.beginPayload_empties (s : State) (len : Word) : (s.beginPayload len).empties = s.empties := rfl
@[simp] theorem State.beginPayload_rbuf (s : State) (len : Word) : (s.beginPayload len).rbuf = s.rbuf := rfl
@[simp] theorem State.beginPayload_pay (s : State) (len : Word) : (s.beginPayload len).pay = [] := rfl
@[simp] theorem State.beginPayload_msgq (s : State) (len : Word) : (s.beginPayload len).msgq = s.msgq := rfl
@[simp] theorem State.beginPayload_status (s : State) (len : Word) : (s.beginPayload len).status = s.status := rfl
@[simp] theorem State.beginPayload_pcause (s : State) (len : Word) : (s.beginPayload len).pcause = s.pcause := rfl
@[simp] theorem State.beginPayload_resets (s : State) (len : Word) : (s.beginPayload len).resets = s.resets := rfl
@[simp] theorem State.beginPayload_loc (s : State) (len : Word) : (s.beginPayload len).loc = s.loc := rfl
@[simp] theorem State.beginPayload_hostq (s : State) (len : Word) : (s.beginPayload len).hostq = s.hostq := rfl
@[simp] theorem State.beginPayload_srcq (s : State) (len : Word) : (s.beginPayload len).srcq = s.srcq := rfl
@[simp] theorem State.beginPayload_resps (s : State) (len : Word) : (s.beginPayload len).resps = s.resps := rfl

@[simp] theorem State.emitted_params (s : State) : s.emitted.params = s.params := rfl
@[simp] theorem State.emitted_val (s : State) : s.emitted.val = 0 := rfl
@[simp] theorem State.emitted_fac (s : State) : s.emitted.fac = 1 := rfl
@[simp] theorem State.emitted_cnt (s : State) : s.emitted.cnt = 0 := rfl
@[simp] theorem State.emitted_blen (s : State) : s.emitted.blen = 0 := rfl
@[simp] theorem State.emitted_hdr (s : State) : s.emitted.hdr = 0 := rfl
@[simp] theorem State.emitted_pmiss (s : State) : s.emitted.pmiss = 0 := rfl
@[simp] theorem State.emitted_r (s : State) : s.emitted.r = s.r := rfl
@[simp] theorem State.emitted_w (s : State) : s.emitted.w = s.w := rfl
@[simp] theorem State.emitted_phase (s : State) : s.emitted.phase = .awaitLen := rfl
@[simp] theorem State.emitted_errk (s : State) : s.emitted.errk = s.errk := rfl
@[simp] theorem State.emitted_erre (s : State) : s.emitted.erre = s.erre := rfl
@[simp] theorem State.emitted_dead (s : State) : s.emitted.dead = s.dead := rfl
@[simp] theorem State.emitted_empties (s : State) : s.emitted.empties = s.empties := rfl
@[simp] theorem State.emitted_rbuf (s : State) : s.emitted.rbuf = s.rbuf := rfl
@[simp] theorem State.emitted_pay (s : State) : s.emitted.pay = [] := rfl
@[simp] theorem State.emitted_msgq (s : State) : s.emitted.msgq = s.msgq ++ [s.message] := rfl
@[simp] theorem State.emitted_status (s : State) : s.emitted.status = s.status := rfl
@[simp] theorem State.emitted_pcause (s : State) : s.emitted.pcause = s.pcause := rfl
@[simp] theorem State.emitted_resets (s : State) : s.emitted.resets = s.resets := rfl
@[simp] theorem State.emitted_loc (s : State) : s.emitted.loc = s.loc := rfl
@[simp] theorem State.emitted_hostq (s : State) : s.emitted.hostq = s.hostq := rfl
@[simp] theorem State.emitted_srcq (s : State) : s.emitted.srcq = s.srcq := rfl
@[simp] theorem State.emitted_resps (s : State) : s.emitted.resps = s.resps := rfl

@[simp] theorem State.fillReturn_params (s : State) : s.fillReturn.params = s.params := rfl
@[simp] theorem State.fillReturn_val (s : State) : s.fillReturn.val = s.val := rfl
@[simp] theorem State.fillReturn_fac (s : State) : s.fillReturn.fac = s.fac := rfl
@[simp] theorem State.fillReturn_cnt (s : State) : s.fillReturn.cnt = s.cnt := rfl
@[simp] theorem State.fillReturn_blen (s : State) : s.fillReturn.blen = s.blen := rfl
@[simp] theorem State.fillReturn_hdr (s : State) : s.fillReturn.hdr = s.hdr := rfl
@[simp] theorem State.fillReturn_pmiss (s : State) : s.fillReturn.pmiss = s.pmiss := rfl
@[simp] theorem State.fillReturn_r (s : State) : s.fillReturn.r = s.r := rfl
@[simp] theorem State.fillReturn_w (s : State) : s.fillReturn.w = s.w := rfl
@[simp] theorem State.fillReturn_phase (s : State) : s.fillReturn.phase = s.phase := rfl
@[simp] theorem State.fillReturn_errk (s : State) : s.fillReturn.errk = s.errk := rfl
@[simp] theorem State.fillReturn_erre (s : State) : s.fillReturn.erre = s.erre := rfl
@[simp] theorem State.fillReturn_dead (s : State) : s.fillReturn.dead = s.dead := rfl
@[simp] theorem State.fillReturn_empties (s : State) : s.fillReturn.empties = s.empties := rfl
@[simp] theorem State.fillReturn_rbuf (s : State) : s.fillReturn.rbuf = s.rbuf := rfl
@[simp] theorem State.fillReturn_pay (s : State) : s.fillReturn.pay = s.pay := rfl
@[simp] theorem State.fillReturn_msgq (s : State) : s.fillReturn.msgq = s.msgq := rfl
@[simp] theorem State.fillReturn_status (s : State) : s.fillReturn.status = s.status := rfl
@[simp] theorem State.fillReturn_pcause (s : State) : s.fillReturn.pcause = s.pcause := rfl
@[simp] theorem State.fillReturn_resets (s : State) : s.fillReturn.resets = s.resets := rfl
@[simp] theorem State.fillReturn_loc (s : State) : s.fillReturn.loc = .top := rfl
@[simp] theorem State.fillReturn_hostq (s : State) : s.fillReturn.hostq = s.hostq := rfl
@[simp] theorem State.fillReturn_srcq (s : State) : s.fillReturn.srcq = s.srcq := rfl
@[simp] theorem State.fillReturn_resps (s : State) : s.fillReturn.resps = s.resps := rfl

@[simp] theorem State.exhausted_params (s : State) : s.exhausted.params = s.params := rfl
@[simp] theorem State.exhausted_val (s : State) : s.exhausted.val = s.val := rfl
@[simp] theorem State.exhausted_fac (s : State) : s.exhausted.fac = s.fac := rfl
@[simp] theorem State.exhausted_cnt (s : State) : s.exhausted.cnt = s.cnt := rfl
@[simp] theorem State.exhausted_blen (s : State) : s.exhausted.blen = s.blen := rfl
@[simp] theorem State.exhausted_hdr (s : State) : s.exhausted.hdr = s.hdr := rfl
@[simp] theorem State.exhausted_pmiss (s : State) : s.exhausted.pmiss = s.pmiss := rfl
@[simp] theorem State.exhausted_r (s : State) : s.exhausted.r = s.r := rfl
@[simp] theorem State.exhausted_w (s : State) : s.exhausted.w = s.w := rfl
@[simp] theorem State.exhausted_phase (s : State) : s.exhausted.phase = s.phase := rfl
@[simp] theorem State.exhausted_errk (s : State) : s.exhausted.errk = some .noProgress := rfl
@[simp] theorem State.exhausted_erre (s : State) : s.exhausted.erre = s.erre := rfl
@[simp] theorem State.exhausted_dead (s : State) : s.exhausted.dead = s.dead := rfl
@[simp] theorem State.exhausted_empties (s : State) : s.exhausted.empties = s.empties := rfl
@[simp] theorem State.exhausted_rbuf (s : State) : s.exhausted.rbuf = s.rbuf := rfl
@[simp] theorem State.exhausted_pay (s : State) : s.exhausted.pay = s.pay := rfl
@[simp] theorem State.exhausted_msgq (s : State) : s.exhausted.msgq = s.msgq := rfl
@[simp] theorem State.exhausted_status (s : State) : s.exhausted.status = s.status := rfl
@[simp] theorem State.exhausted_pcause (s : State) : s.exhausted.pcause = s.pcause := rfl
@[simp] theorem State.exhausted_resets (s : State) : s.exhausted.resets = s.resets := rfl
@[simp] theorem State.exhausted_loc (s : State) : s.exhausted.loc = .top := rfl
@[simp] theorem State.exhausted_hostq (s : State) : s.exhausted.hostq = s.hostq := rfl
@[simp] theorem State.exhausted_srcq (s : State) : s.exhausted.srcq = s.srcq := rfl
@[simp] theorem State.exhausted_resps (s : State) : s.exhausted.resps = s.resps := rfl

@[simp] theorem State.cleared_params (s : State) : s.cleared.params = s.params := rfl
@[simp] theorem State.cleared_val (s : State) : s.cleared.val = 0 := rfl
@[simp] theorem State.cleared_fac (s : State) : s.cleared.fac = 1 := rfl
@[simp] theorem State.cleared_cnt (s : State) : s.cleared.cnt = 0 := rfl
@[simp] theorem State.cleared_blen (s : State) : s.cleared.blen = 0 := rfl
@[simp] theorem State.cleared_hdr (s : State) : s.cleared.hdr = 0 := rfl
@[simp] theorem State.cleared_pmiss (s : State) : s.cleared.pmiss = 0 := rfl
@[simp] theorem State.cleared_r (s : State) : s.cleared.r = 0 := rfl
@[simp] theorem State.cleared_w (s : State) : s.cleared.w = 0 := rfl
@[simp] theorem State.cleared_phase (s : State) : s.cleared.phase = .awaitLen := rfl
@[simp] theorem State.cleared_errk (s : State) : s.cleared.errk = none := rfl
@[simp] theorem State.cleared_erre (s : State) : s.cleared.erre = 0 := rfl
@[simp] theorem State.cleared_dead (s : State) : s.cleared.dead = false := rfl
@[simp] theorem State.cleared_empties (s : State) : s.cleared.empties = 0 := rfl
@[simp] theorem State.cleared_rbuf (s : State) : s.cleared.rbuf = [] := rfl
@[simp] theorem State.cleared_pay (s : State) : s.cleared.pay = [] := rfl
@[simp] theorem State.cleared_msgq (s : State) : s.cleared.msgq = [] := rfl
@[simp] theorem State.cleared_status (s : State) : s.cleared.status = .idle := rfl
@[simp] theorem State.cleared_pcause (s : State) : s.cleared.pcause = .full := rfl
@[simp] theorem State.cleared_resets (s : State) : s.cleared.resets = s.resets + 1 := rfl
@[simp] theorem State.cleared_loc (s : State) : s.cleared.loc = .top := rfl
@[simp] theorem State.cleared_hostq (s : State) : s.cleared.hostq = s.hostq := rfl
@[simp] theorem State.cleared_srcq (s : State) : s.cleared.srcq = s.srcq := rfl
@[simp] theorem State.cleared_resps (s : State) : s.cleared.resps = s.resps := rfl

end Sys2Proof.Machine
end

