-- ==== Sys2Proof/Laws/Ops.lean ====
section
/-! SUPPORT. One lemma for each shared operation, saying once what it can do; the callers cite it. -/

namespace Sys2Proof.Machine

theorem widthFrom_spec {n : Nat} (fuel k : Nat) (h : n < 2 ^ (k + fuel)) :
    n < 2 ^ widthFrom fuel k n := by
  induction fuel generalizing k with
  | zero => simpa [widthFrom] using h
  | succ fuel ih =>
    simp only [widthFrom]
    split
    · assumption
    · exact ih (k + 1) (by rwa [Nat.add_right_comm, Nat.add_assoc])

theorem lt_two_pow_widthOf (n : Nat) : n < 2 ^ widthOf n :=
  widthFrom_spec n 0 (by rw [Nat.zero_add]; exact Nat.lt_two_pow_self)

/-- Every index into RBUF, and the index behind its end, has IDXW bits (R26). -/
theorem cap_lt_two_pow_idxw (p : Params) : p.cap < 2 ^ p.idxw := lt_two_pow_widthOf p.cap

theorem State.index_lt (s : State) (v : Nat) : s.index v < 2 ^ s.params.idxw :=
  Nat.mod_lt _ (Nat.two_pow_pos _)

theorem State.index_le (s : State) (v : Nat) : s.index v ≤ v := Nat.mod_le _ _

/-- A number of IDXW bits is stored whole. -/
theorem State.index_of_lt {s : State} {v : Nat} (h : v < 2 ^ s.params.idxw) : s.index v = v :=
  Nat.mod_eq_of_lt h

/-- No write of R or W that the buffer bounds loses a bit (R26: "Neither ever wraps"). -/
theorem State.index_of_le {s : State} {v : Nat} (h : v ≤ s.params.cap) : s.index v = v :=
  State.index_of_lt (lt_of_le_of_lt h (cap_lt_two_pow_idxw s.params))

theorem State.emptyCount_lt (s : State) (v : Nat) : s.emptyCount v < 2 ^ s.params.emptiesw :=
  Nat.mod_lt _ (Nat.two_pow_pos _)

/-- No count up to the bound loses a bit (R31). -/
theorem State.emptyCount_of_le {s : State} {v : Nat} (h : v ≤ s.params.maxEmptyReads) :
    s.emptyCount v = v :=
  Nat.mod_eq_of_lt (lt_of_le_of_lt h (lt_two_pow_widthOf s.params.maxEmptyReads))

theorem State.readByte_ok {s : State} {i : Nat} {b : Byte} :
    s.readByte i = .ok b ↔ i < s.params.cap ∧ s.byteAt i = b := by
  unfold State.readByte
  split
  · simp; omega
  · simp; omega

/-- A read of RBUF stops only at an index that RBUF does not have. -/
theorem State.readByte_error {s : State} {i : Nat} {f : Fault} :
    s.readByte i = .error f ↔ s.params.cap ≤ i ∧ f = .outsideBuffer := by
  unfold State.readByte
  split
  · simp [*, eq_comm]
  · simp [*]

/-- MemRead gives the bytes in order exactly when all of them exist. -/
theorem State.readBytes_ok {s : State} {a : Nat} {bs : List Byte}
    (h : ∀ k, ∀ hk : k < bs.length, a + k < s.params.cap ∧ s.byteAt (a + k) = bs[k]) :
    s.readBytes a bs.length = .ok bs := by
  induction bs generalizing a with
  | nil => rfl
  | cons b rest ih =>
    have h0 := h 0 (by simp)
    have hb : s.readByte a = .ok b := State.readByte_ok.2 (by simpa using h0)
    have hr : s.readBytes (a + 1) rest.length = .ok rest := by
      apply ih
      intro k hk
      have := h (k + 1) (by simpa using hk)
      simpa [Nat.add_assoc, Nat.add_comm 1 k] using this
    simp [State.readBytes, hb, hr]

/-- What MemRead gives has the length asked for, and consists of bytes that RBUF has. -/
theorem State.readBytes_spec {s : State} {a n : Nat} {bs : List Byte}
    (h : s.readBytes a n = .ok bs) :
    bs.length = n ∧
      ∀ k, ∀ hk : k < bs.length, a + k < s.params.cap ∧ s.byteAt (a + k) = bs[k] := by
  induction n generalizing a bs with
  | zero => simp only [State.readBytes, Except.ok.injEq] at h; subst h; simp
  | succ n ih =>
    simp only [State.readBytes] at h
    split at h
    · simp at h
    · rename_i b hb
      split at h
      · simp at h
      · rename_i rest hr
        simp only [Except.ok.injEq] at h
        subst h
        obtain ⟨hl, hrest⟩ := ih hr
        refine ⟨by simp [hl], ?_⟩
        intro k hk
        cases k with
        | zero => simpa using State.readByte_ok.1 hb
        | succ k =>
          have := hrest k (by simpa using hk)
          simpa [Nat.add_assoc, Nat.add_comm 1 k] using this

/-- MemRead stops, if it does, because one of the bytes does not exist. -/
theorem State.readBytes_error {s : State} {a n : Nat} {f : Fault} (h : s.readBytes a n = .error f) :
    s.params.cap < a + n ∧ f = .outsideBuffer := by
  induction n generalizing a with
  | zero => simp [State.readBytes] at h
  | succ n ih =>
    simp only [State.readBytes] at h
    split at h
    · rename_i g hg
      obtain ⟨hc, rfl⟩ := State.readByte_error.1 hg
      simp only [Except.error.injEq] at h
      exact ⟨by omega, h.symm⟩
    · split at h
      · rename_i g hg
        simp only [Except.error.injEq] at h
        subst h
        obtain ⟨hc, hf⟩ := ih hg
        exact ⟨by omega, hf⟩
      · simp at h

/-- MemRead depends on the capacity and on the bytes it reads, and on nothing else. -/
theorem State.readBytes_congr {s s' : State} {a n : Nat} (hc : s'.params.cap = s.params.cap)
    (h : ∀ j, a ≤ j → j < a + n → s'.byteAt j = s.byteAt j) :
    s'.readBytes a n = s.readBytes a n := by
  induction n generalizing a with
  | zero => rfl
  | succ n ih =>
    have hb : s'.readByte a = s.readByte a := by
      simp [State.readByte, hc, h a (le_refl a) (by omega)]
    have hr := ih (a := a + 1) (fun j h1 h2 => h j (by omega) (by omega))
    simp [State.readBytes, hb, hr]

/-- A byte of RBUF after COMPACT (R144). -/
theorem State.compacted_byteAt (s : State) (a : Nat) :
    s.compacted.byteAt a = if a < s.w - s.r then s.byteAt (s.r + a) else s.byteAt a := by
  simp [State.byteAt, Memory.byteAt_moveDown]

/-- A byte of RBUF after a response's bytes are stored (R173). -/
theorem State.receive_byteAt (s : State) (data : List Byte) (a : Nat) :
    (s.receive data).byteAt a =
      if h : s.w ≤ a ∧ a < s.w + data.length then data[a - s.w] else s.byteAt a := by
  simp [State.byteAt, Memory.byteAt_write]

/-- Bytes that fit are stored, and W advances by their number (R173). -/
theorem State.receive_eq {s : State} {data : List Byte} (h : s.w + data.length ≤ s.params.cap) :
    s.receive data =
      { s with rbuf := Memory.write s.rbuf s.w data, w := s.w + data.length } := by
  rw [State.receive, State.index_of_le h]

/-- COMPACT with W a number of IDXW bits: its two index registers (R144). -/
theorem State.compacted_eq {s : State} (h : s.w < 2 ^ s.params.idxw) :
    s.compacted = { s with rbuf := s.compacted.rbuf, r := 0, w := s.w - s.r } := by
  have hw : s.index (s.w - s.r) = s.w - s.r := State.index_of_lt (by omega)
  simp only [State.compacted, hw]

/-- A byte stored by a response reads back. -/
theorem Memory.byteAt_write_inside (m : Memory) (n a k : Nat) (v : List Byte) (h : k < v.length) :
    Memory.byteAt (Memory.write m a v) n (a + k) = v[k] := by
  simp [Memory.byteAt_write, h]

/-- A byte outside what a response stores is as before. -/
theorem Memory.byteAt_write_outside (m : Memory) (n a j : Nat) (v : List Byte)
    (h : j < a ∨ a + v.length ≤ j) :
    Memory.byteAt (Memory.write m a v) n j = Memory.byteAt m n j := by
  rw [Memory.byteAt_write, dif_neg (by omega)]

/-- `F1` is a compaction whether or not `R > 0`: with `R = 0` it moves every byte to itself. -/
theorem State.rebased_byteAt (s : State) (a : Nat) :
    Memory.byteAt s.rebased.rbuf s.resets a =
      if a < s.w - s.r then s.byteAt (s.r + a) else s.byteAt a := by
  unfold State.rebased
  split
  · exact s.compacted_byteAt a
  · have : s.r = 0 := by omega
    simp [this, State.byteAt]

/-- What `F1` changes: RBUF and its indices. -/
theorem State.rebased_eq (s : State) :
    s.rebased = { s with rbuf := s.rebased.rbuf, r := 0, w := s.rebased.w } := by
  unfold State.rebased
  split
  · rfl
  · have : s.r = 0 := by omega
    cases s
    simp_all

theorem State.rebased_w {s : State} (h : s.w < 2 ^ s.params.idxw) : s.rebased.w = s.w - s.r := by
  unfold State.rebased
  split
  · exact State.index_of_lt (by omega)
  · omega

/-- What one turn of the read loop can leave (R170 F3). -/
theorem State.answered_cases (s : State) (x : SrcResp) :
    ((x.st = 3 ∨ s.params.cap < s.w + x.n) ∧ s.answered x = s.panic .badRead) ∨
    (s.w + x.n ≤ s.params.cap ∧
      ((x.st = 1 ∧ s.answered x = { s.receive x.data with errk := some .endOfStream, loc := .top }) ∨
       (x.st = 2 ∧ s.answered x = { s.receive x.data with
          errk := some .sourceError, erre := s.errCode x.e, loc := .top }) ∨
       (x.st = 0 ∧ 0 < x.n ∧ s.answered x = { s.receive x.data with loc := .top }) ∨
       (x.st = 0 ∧ x.n = 0 ∧ s.emptyCount (s.empties + 1) < s.params.maxEmptyReads ∧
          s.answered x = { s with
            empties := s.emptyCount (s.empties + 1), loc := .srcWait }) ∨
       (x.st = 0 ∧ x.n = 0 ∧ s.params.maxEmptyReads ≤ s.emptyCount (s.empties + 1) ∧
          s.answered x = { s with
            empties := s.emptyCount (s.empties + 1), errk := some .noProgress, loc := .top }))) := by
  have hst : x.st = 0 ∨ x.st = 1 ∨ x.st = 2 ∨ x.st = 3 := by
    generalize x.st = y; revert y; decide
  by_cases hbad : x.st = 3 ∨ s.params.cap < s.w + x.n
  · exact .inl ⟨hbad, by rw [State.answered, if_pos hbad]⟩
  · have hroom : s.w + x.n ≤ s.params.cap := by omega
    have h3 : x.st ≠ 3 := fun h => hbad (.inl h)
    refine .inr ⟨hroom, ?_⟩
    rcases hst with h | h | h | h
    · by_cases hn : 0 < x.n
      · exact .inr (.inr (.inl ⟨h, hn, by
          simp [State.answered, h, hn, not_lt.2 hroom, State.fillReturn]⟩))
      · have hd : x.data = [] := by simpa [SrcResp.n] using hn
        have hn0 : x.n = 0 := by omega
        have hw : s.index s.w = s.w := State.index_of_le (by omega)
        by_cases he : s.emptyCount (s.empties + 1) < s.params.maxEmptyReads
        · exact .inr (.inr (.inr (.inl ⟨h, hn0, he, by
            rw [State.answered, if_neg hbad]
            simp [h, hn0, hd, State.readOrGiveUp, he, State.receive, Memory.write, hw]⟩)))
        · exact .inr (.inr (.inr (.inr ⟨h, hn0, by omega, by
            rw [State.answered, if_neg hbad]
            simp [h, hn0, hd, State.readOrGiveUp, he, State.receive, Memory.write, hw,
              State.exhausted, State.fillReturn]⟩)))
    · exact .inl ⟨h, by
        rw [State.answered, if_neg hbad]; simp [h, State.fillReturn]⟩
    · exact .inr (.inl ⟨h, by
        rw [State.answered, if_neg hbad]; simp [h, State.fillReturn]⟩)
    · exact absurd h h3

end Sys2Proof.Machine
end

