-- ==== Sys2Proof/Laws/Step.lean ====
section
/-! SUPPORT. What a step runs, by the place where the block stands; which operations answer a next
state. The proofs over a step split on these and never unfold the sequencer. -/

namespace Sys2Proof.Machine

theorem step_of_nextOp {s s' : State} {i : Instr} (h : s.nextOp = .ok (some (i, s'))) :
    step s = exec i s' := by simp [step, h]

/-- A host command is next: outside BUSY, or when the host does not wait. -/
theorem State.nextOp_command {s : State} {ev : HostEvent} {rest : List HostEvent}
    (hq : s.hostq = ev :: rest) (h : s.status ≠ .busy ∨ ev.whileBusy = true) :
    s.nextOp = .ok (some (decodeCommand ev.cmd, { s with hostq := rest })) := by
  simp only [State.nextOp, hq]
  rw [if_neg]
  rintro ⟨h1, h2⟩
  rcases h with h | h
  · exact h h1
  · simp [h2] at h

/-- The drive loop is next: in BUSY, when no host barges in. -/
theorem State.nextOp_loop {s : State} (hb : s.status = .busy)
    (ho : ∀ ev ∈ s.hostq, ev.whileBusy = false) : s.nextOp = s.loopNext := by
  unfold State.nextOp
  split
  · simp [hb]
  · rename_i ev rest hq
    rw [if_pos ⟨hb, ho ev (by simp [hq])⟩]

/-- Every way the drive loop has a next operation. -/
theorem State.loopNext_cases {s s' : State} {i : Instr} (hl : s.loopNext = .ok (some (i, s'))) :
    (s.loc = .top ∧ s' = s ∧
      ((s.msgq ≠ [] ∧ i = .deliver) ∨
       (s.msgq = [] ∧ s.r < s.w ∧ ∃ b, s.readByte s.r = .ok b ∧ i = decodeByte s.phase b) ∨
       (s.msgq = [] ∧ s.w ≤ s.r ∧ s.errk ≠ none ∧ i = .surface) ∨
       (s.msgq = [] ∧ s.w ≤ s.r ∧ s.errk = none ∧ i = .stallchk))) ∨
    (s.loc = .capchk ∧ s' = s ∧ i = .capchk) ∨
    (s.loc = .fill ∧ s' = s ∧ i = .fill) ∨
    (s.loc = .srcWait ∧ ∃ x rest, s.srcq = x :: rest ∧
      i = decodeResponse s.room x ∧ s' = { s with srcq := rest }) := by
  unfold State.loopNext at hl
  split at hl
  · rename_i hloc
    unfold State.loopTop State.qNonempty State.errPending at hl
    refine .inl ⟨hloc, ?_⟩
    cases hq : s.msgq with
    | cons m rest =>
      simp only [hq, List.isEmpty_cons, Bool.not_false, if_true, Except.ok.injEq,
        Option.some.injEq, Prod.mk.injEq] at hl
      exact ⟨hl.2.symm, .inl ⟨by simp, hl.1.symm⟩⟩
    | nil =>
      simp only [hq, List.isEmpty_nil, Bool.not_true, Bool.false_eq_true, if_false] at hl
      by_cases hrw : s.r < s.w
      · simp only [hrw, if_true] at hl
        cases hb' : s.readByte s.r with
        | error f => simp [hb'] at hl
        | ok b =>
          simp only [hb', Except.ok.injEq, Option.some.injEq, Prod.mk.injEq] at hl
          exact ⟨hl.2.symm, .inr (.inl ⟨rfl, hrw, b, rfl, hl.1.symm⟩)⟩
      · simp only [hrw, if_false] at hl
        cases he : s.errk with
        | none =>
          simp only [he, Option.isSome_none, Bool.false_eq_true, if_false, Except.ok.injEq,
            Option.some.injEq, Prod.mk.injEq] at hl
          exact ⟨hl.2.symm, .inr (.inr (.inr ⟨rfl, by omega, rfl, hl.1.symm⟩))⟩
        | some k =>
          simp only [he, Option.isSome_some, if_true, Except.ok.injEq, Option.some.injEq,
            Prod.mk.injEq] at hl
          exact ⟨hl.2.symm, .inr (.inr (.inl ⟨rfl, by omega, by simp, hl.1.symm⟩))⟩
  · rename_i hloc
    simp only [Except.ok.injEq, Option.some.injEq, Prod.mk.injEq] at hl
    exact .inr (.inl ⟨hloc, hl.2.symm, hl.1.symm⟩)
  · rename_i hloc
    simp only [Except.ok.injEq, Option.some.injEq, Prod.mk.injEq] at hl
    exact .inr (.inr (.inl ⟨hloc, hl.2.symm, hl.1.symm⟩))
  · rename_i hloc
    cases hs : s.srcq with
    | nil => simp [hs] at hl
    | cons x rest =>
      simp only [hs, Except.ok.injEq, Option.some.injEq, Prod.mk.injEq] at hl
      exact .inr (.inr (.inr ⟨hloc, x, rest, rfl, hl.1.symm, hl.2.symm⟩))

/-- Every way a state has a next operation: a host command, or the drive loop's. -/
theorem State.nextOp_cases {s s' : State} {i : Instr} (h : s.nextOp = .ok (some (i, s'))) :
    (∃ ev rest, s.hostq = ev :: rest ∧ (s.status ≠ .busy ∨ ev.whileBusy = true) ∧
      i = decodeCommand ev.cmd ∧ s' = { s with hostq := rest }) ∨
    (s.status = .busy ∧ s.loopNext = .ok (some (i, s'))) := by
  unfold State.nextOp at h
  split at h
  · split at h
    · exact .inr ⟨by assumption, h⟩
    · simp at h
  · rename_i ev rest hq
    split at h
    · rename_i hb
      exact .inr ⟨hb.1, h⟩
    · rename_i hb
      simp only [Except.ok.injEq, Option.some.injEq, Prod.mk.injEq] at h
      refine .inl ⟨ev, rest, hq, ?_, h.1.symm, h.2.symm⟩
      by_cases hs : s.status = .busy
      · exact .inr (by simpa [hs] using hb)
      · exact .inl hs

/-- A step that answers a next state either waits or executes an operation. -/
theorem step_cases {s t : State} (h : step s = .next t) :
    (s.nextOp = .ok none ∧ t = s) ∨
    (∃ i s', s.nextOp = .ok (some (i, s')) ∧ exec i s' = .next t) := by
  unfold step at h
  split at h
  · simp at h
  · rename_i hn
    exact .inl ⟨hn, by simpa using h.symm⟩
  · rename_i i s' hn
    exact .inr ⟨i, s', hn, h⟩

/-- What the byte operations decode to. -/
theorem decodeByte_cases (p : Phase) (b : Byte) :
    (p = .awaitLen ∧ ∃ g, decodeByte p b = .lenC g ∨ decodeByte p b = .lenT g) ∨
    (p = .awaitHeader ∧ ∃ g, decodeByte p b = .hdrC g ∨ decodeByte p b = .hdrT g) ∨
    (p = .awaitPayload ∧ decodeByte p b = .payB b) := by
  cases p with
  | awaitLen => exact .inl ⟨rfl, groupOf b, by simp only [decodeByte]; split <;> simp⟩
  | awaitHeader => exact .inr (.inl ⟨rfl, groupOf b, by simp only [decodeByte]; split <;> simp⟩)
  | awaitPayload => exact .inr (.inr ⟨rfl, rfl⟩)

/-- What a response decodes to acts as one turn of FILL's read loop (R170). -/
theorem exec_decodeResponse (s : State) (x : SrcResp) (h : s.w ≤ s.params.cap) :
    exec (decodeResponse s.room x) s = .next (s.answered x) := by
  unfold decodeResponse
  have hiff : (x.st = 3 ∨ s.room < x.n) ↔ (x.st = 3 ∨ s.params.cap < s.w + x.n) := by
    rw [show s.room < x.n ↔ s.params.cap < s.w + x.n by unfold State.room; omega]
  split
  · rename_i hbad
    rw [hiff] at hbad
    rw [State.answered, if_pos hbad]
    rfl
  · rename_i hbad
    rw [hiff] at hbad
    have hst : x.st = 0 ∨ x.st = 1 ∨ x.st = 2 ∨ x.st = 3 := by
      generalize x.st = y; revert y; decide
    have h3 : x.st ≠ 3 := fun h => hbad (.inl h)
    obtain ⟨data, st, e⟩ := x
    rcases hst with h | h | h | h
    · change st = 0 at h
      subst h
      cases data with
      | nil => rfl
      | cons b bs => rfl
    · change st = 1 at h; subst h; rfl
    · change st = 2 at h; subst h; rfl
    · exact absurd h h3

end Sys2Proof.Machine
end

