-- ==== Sys2Proof/Laws/Meanings.lean ====
section
/-! SUPPORT. One lemma for each meaning with several ways out, saying once everything it can answer. -/

namespace Sys2Proof.Machine

theorem cnt_succ_toNat {c : BitVec 4} (h : c.toNat ≤ 14) : (c + 1).toNat = c.toNat + 1 := by
  rw [BitVec.toNat_add]
  exact Nat.mod_eq_of_lt (by simp; omega)

theorem cnt_toNat_widened (c : BitVec 4) : (c.setWidth 64 : Word).toNat = c.toNat := by
  rw [BitVec.toNat_setWidth]
  exact Nat.mod_eq_of_lt (by omega)

theorem cnt_eq_zero_iff (c : BitVec 4) : c = 0 ↔ c.toNat = 0 :=
  ⟨fun h => by rw [h]; rfl, fun h => BitVec.eq_of_toNat_eq h⟩

theorem word_eq_zero_iff (v : Word) : v = 0 ↔ v.toNat = 0 :=
  ⟨fun h => by rw [h]; rfl, fun h => BitVec.eq_of_toNat_eq h⟩

/-- The two ways of VB.C (R102): the eleventh byte raises, every other accumulates. -/
theorem State.vbC_cases (s : State) (g : Group) :
    (s.cnt = 10 ∧ s.vbC g =
      { s with val := s.val + contribution g s.fac, fac := s.fac * 128, cnt := s.cnt + 1,
               r := s.index (s.r + 1) }.raise .malformed none) ∨
    (s.cnt ≠ 10 ∧ s.vbC g =
      { s with val := s.val + contribution g s.fac, fac := s.fac * 128, cnt := s.cnt + 1,
               r := s.index (s.r + 1) }) := by
  have hiff : s.cnt + 1 = 11 ↔ s.cnt = 10 := by
    generalize s.cnt = c; revert c; decide
  have hov : State.varintOverrun { s.vacc g with fac := s.fac * 128, r := s.index (s.r + 1) } =
      decide (s.cnt + 1 = 11) := rfl
  unfold State.vbC
  dsimp only
  by_cases h : s.cnt = 10
  · exact .inl ⟨h, by rw [hov, decide_eq_true (hiff.2 h), if_pos rfl]; rfl⟩
  · refine .inr ⟨h, ?_⟩
    rw [hov, decide_eq_false (fun h' => h (hiff.1 h'))]
    rfl

/-- The two ends of HDR.T and of PAY.B (R124, R125). -/
theorem State.emitIfComplete_cases (s : State) :
    (s.pmiss = 0 ∧ s.emitIfComplete = s.emitted) ∨ (s.pmiss ≠ 0 ∧ s.emitIfComplete = s) := by
  unfold State.emitIfComplete
  split
  · exact .inl ⟨by assumption, rfl⟩
  · exact .inr ⟨by assumption, rfl⟩

/-- The four ways of HDR.T (R124), by the header's length `c = CNT + 1`. -/
theorem execHdrT_cases (g : Group) (s : State) (hc : s.cnt.toNat ≤ 14) :
    (s.blen.toNat < s.cnt.toNat + 1 ∧
      execHdrT g s = .next ({ s.vbT g with hdr := (s.vbT g).val }.raise .malformed none)) ∨
    (s.cnt.toNat + 1 ≤ s.blen.toNat ∧ ∃ len : Word,
      len.toNat = s.blen.toNat - (s.cnt.toNat + 1) ∧
      ((s.params.maxMessageSize < len.toNat ∧
          execHdrT g s =
            .next ({ s.vbT g with hdr := (s.vbT g).val, blen := len }.raise .oversize none)) ∨
       (len.toNat ≤ s.params.maxMessageSize ∧ len = 0 ∧
          execHdrT g s =
            .next ({ s.vbT g with hdr := (s.vbT g).val }.beginPayload len).emitted) ∨
       (len.toNat ≤ s.params.maxMessageSize ∧ len ≠ 0 ∧
          execHdrT g s = .next ({ s.vbT g with hdr := (s.vbT g).val }.beginPayload len)))) := by
  have hw : ((s.vbT g).cnt.setWidth 64 : Word).toNat = s.cnt.toNat + 1 := by
    rw [cnt_toNat_widened, State.vbT_cnt, cnt_succ_toNat hc]
  have hiff : s.blen < ((s.vbT g).cnt.setWidth 64 : Word) ↔ s.blen.toNat < s.cnt.toNat + 1 := by
    rw [BitVec.lt_def, hw]
  unfold execHdrT
  by_cases h1 : s.blen.toNat < s.cnt.toNat + 1
  · refine .inl ⟨h1, ?_⟩
    dsimp only
    rw [if_pos (by rw [State.vbT_blen, hiff]; exact h1)]
  · refine .inr ⟨by omega, s.blen - (s.vbT g).cnt.setWidth 64, ?_, ?_⟩
    · rw [BitVec.toNat_sub_of_le (by rw [BitVec.le_def, hw]; omega), hw]
    · dsimp only
      rw [if_neg (by rw [State.vbT_blen, hiff]; exact h1), State.vbT_blen, State.vbT_params]
      generalize s.blen - (s.vbT g).cnt.setWidth 64 = len
      by_cases h2 : s.params.maxMessageSize < len.toNat
      · exact .inl ⟨h2, by rw [if_pos h2]⟩
      · rw [if_neg h2]
        refine .inr ?_
        rcases State.emitIfComplete_cases ({ s.vbT g with hdr := (s.vbT g).val }.beginPayload len)
          with ⟨h3, h4⟩ | ⟨h3, h4⟩
        · exact .inl ⟨by omega, h3, congrArg Host.Outcome.next h4⟩
        · exact .inr ⟨by omega, h3, congrArg Host.Outcome.next h4⟩

/-- The length of a burst, bounded by both of its limits. -/
theorem State.burstLen_le (s : State) :
    s.burstLen ≤ s.pmiss.toNat ∧ s.burstLen ≤ s.w - s.r := by
  unfold State.burstLen; omega

/-- What is missing after a burst. -/
theorem State.pmiss_after_burst (s : State) :
    (s.pmiss - BitVec.ofNat 64 s.burstLen).toNat = s.pmiss.toNat - s.burstLen := by
  have h := s.burstLen_le.1
  have hk : (BitVec.ofNat 64 s.burstLen).toNat = s.burstLen := by
    rw [BitVec.toNat_ofNat]
    exact Nat.mod_eq_of_lt (lt_of_le_of_lt h s.pmiss.isLt)
  rw [BitVec.toNat_sub_of_le (by rw [BitVec.le_def, hk]; exact h), hk]

/-- The bytes a burst copies: `k` of them, its own byte first, the others those behind it. -/
theorem State.burst_spec {s : State} {d : Byte} {bs : List Byte} (h : s.burst d = .ok bs) :
    bs.length = s.burstLen ∧
    (0 < s.burstLen → bs[0]? = some d) ∧
    (∀ k, 1 ≤ k → ∀ hk : k < bs.length, s.r + k < s.params.cap ∧ s.byteAt (s.r + k) = bs[k]) := by
  unfold State.burst at h
  split at h
  · rename_i h0
    cases h
    exact ⟨h0.symm, fun hp => by omega, fun k _ hk => by simp at hk⟩
  · rename_i k hk
    split at h
    · cases h
    · rename_i rest hr
      cases h
      obtain ⟨hl, hb⟩ := State.readBytes_spec hr
      refine ⟨by simp [hl, hk], fun _ => rfl, fun j hj hlt => ?_⟩
      obtain ⟨i, rfl⟩ : ∃ i, j = i + 1 := ⟨j - 1, by omega⟩
      have hi : i < rest.length := by simpa using hlt
      simpa [Nat.add_assoc, Nat.add_comm 1 i] using hb i hi

/-- A burst over bytes that all exist copies them. -/
theorem State.burst_ok {s : State} {d : Byte} {bs : List Byte} (hl : bs.length + 1 = s.burstLen)
    (hc : s.r + s.burstLen ≤ s.params.cap)
    (h : ∀ k, ∀ hk : k < bs.length, s.byteAt (s.r + 1 + k) = bs[k]) :
    s.burst d = .ok (d :: bs) := by
  have hr : s.readBytes (s.r + 1) bs.length = .ok bs :=
    State.readBytes_ok fun k hk => ⟨by omega, h k hk⟩
  unfold State.burst
  rw [← hl]
  simp [hr]

/-- The three ways of PAY.B (R125): a byte that does not exist, the payload's end, or a burst short of
it. -/
theorem execPayB_cases (d : Byte) (s : State) :
    (∃ f, s.burst d = .error f ∧ execPayB d s = .fault f) ∨
    (∃ bs p, s.burst d = .ok bs ∧ bs.length = s.burstLen ∧
      p.toNat = s.pmiss.toNat - s.burstLen ∧
      ((s.burstLen = s.pmiss.toNat ∧
          execPayB d s = .next { s with
            pay := s.pay ++ bs, r := s.index (s.r + s.burstLen), pmiss := p }.emitted) ∨
       (s.burstLen < s.pmiss.toNat ∧
          execPayB d s = .next { s with
            pay := s.pay ++ bs, r := s.index (s.r + s.burstLen), pmiss := p }))) := by
  unfold execPayB
  cases hb : s.burst d with
  | error f => exact .inl ⟨f, rfl, rfl⟩
  | ok bs =>
    have hp := s.pmiss_after_burst
    have hle := s.burstLen_le.1
    refine .inr ⟨bs, s.pmiss - BitVec.ofNat 64 s.burstLen, rfl, (State.burst_spec hb).1, hp, ?_⟩
    rcases State.emitIfComplete_cases { s with
      pay := s.pay ++ bs, r := s.index (s.r + s.burstLen),
      pmiss := s.pmiss - BitVec.ofNat 64 s.burstLen } with ⟨h0, he⟩ | ⟨h0, he⟩
    · refine .inl ⟨?_, by simp only; rw [he]⟩
      have := (word_eq_zero_iff _).1 h0
      simp only at this
      omega
    · refine .inr ⟨?_, by simp only; rw [he]⟩
      have := mt (word_eq_zero_iff _).2 h0
      simp only at this
      omega

/-- The two ways of CAPCHK (R148). -/
theorem execCapchk_cases (s : State) :
    (s.phase = .awaitPayload ∧ s.params.cap < s.w + s.pmiss.toNat ∧ s.tooShort = true ∧
      execCapchk s = .next (s.raise .shortBuffer none)) ∨
    ((s.phase ≠ .awaitPayload ∨ s.w + s.pmiss.toNat ≤ s.params.cap) ∧ s.tooShort = false ∧
      execCapchk s = .next { s with loc := .fill }) := by
  unfold execCapchk
  by_cases h : s.phase = .awaitPayload ∧ s.params.cap < s.w + s.pmiss.toNat
  · have ht : s.tooShort = true := by unfold State.tooShort; simp [h.1, h.2]
    exact .inl ⟨h.1, h.2, ht, by rw [if_pos ht]⟩
  · have ht : s.tooShort = false := by
      unfold State.tooShort
      rw [Bool.and_eq_false_iff, decide_eq_false_iff_not, decide_eq_false_iff_not]
      exact not_and_or.1 h
    refine .inr ⟨?_, ht, by rw [ht]; rfl⟩
    rcases not_and_or.1 h with h | h
    · exact .inl h
    · exact .inr (by omega)

/-- The three ways of FILL (R170 F1 to F4): no room, a SrcRead, no read allowed. -/
theorem execFill_cases (s : State) :
    (s.params.cap ≤ s.rebased.w ∧ execFill s = .next (s.rebased.panic .full)) ∨
    (s.rebased.w < s.params.cap ∧ 0 < s.params.maxEmptyReads ∧
      execFill s = .next { s.rebased with empties := 0, loc := .srcWait }) ∨
    (s.rebased.w < s.params.cap ∧ s.params.maxEmptyReads = 0 ∧
      execFill s = .next { s.rebased with
        empties := 0, errk := some .noProgress, loc := .top }) := by
  have hp : s.rebased.params = s.params := by rw [State.rebased_eq]
  unfold execFill
  dsimp only
  by_cases h1 : s.params.cap ≤ s.rebased.w
  · exact .inl ⟨h1, by rw [if_pos (by rw [hp]; exact h1)]⟩
  · rw [if_neg (by rw [hp]; exact h1)]
    refine .inr ?_
    have hr : State.readOrGiveUp { s.rebased with empties := 0 } =
        if 0 < s.params.maxEmptyReads then { s.rebased with empties := 0, loc := .srcWait }
        else { s.rebased with empties := 0, errk := some .noProgress, loc := .top } := by
      rw [← hp]; rfl
    rw [hr]
    by_cases h2 : 0 < s.params.maxEmptyReads
    · exact .inl ⟨by omega, h2, by rw [if_pos h2]⟩
    · exact .inr ⟨by omega, by omega, by rw [if_neg h2]⟩

end Sys2Proof.Machine
end

