-- ==== Sys2Proof/Laws/PerInstr.lean ====
section
/-! SUPPORT. Statements made per instruction, about the instruction as syntax. -/

namespace Sys2Proof.Laws.OnlyResponsesCanBeIllFormed

/-- Every stream byte, micro-operation and command stands for an operation of the table whatever room
the block offers and whatever the width of a source code; only a source response has operands that
these can exclude (R14, R84). -/
def Statement (i : Instr) : Prop :=
  (∃ x, encode i = some (.response x)) ∨ ∀ room ew, i.wellFormed room ew = true

theorem lenC (g : Group) : Statement (.lenC g) := .inr fun _ _ => rfl
theorem lenT (g : Group) : Statement (.lenT g) := .inr fun _ _ => rfl
theorem hdrC (g : Group) : Statement (.hdrC g) := .inr fun _ _ => rfl
theorem hdrT (g : Group) : Statement (.hdrT g) := .inr fun _ _ => rfl
theorem payB (d : Byte) : Statement (.payB d) := .inr fun _ _ => rfl
theorem vreset : Statement .vreset := .inr fun _ _ => rfl
theorem emit : Statement .emit := .inr fun _ _ => rfl
theorem deliver : Statement .deliver := .inr fun _ _ => rfl
theorem compact : Statement .compact := .inr fun _ _ => rfl
theorem surface : Statement .surface := .inr fun _ _ => rfl
theorem stallchk : Statement .stallchk := .inr fun _ _ => rfl
theorem capchk : Statement .capchk := .inr fun _ _ => rfl
theorem fill : Statement .fill := .inr fun _ _ => rfl
theorem readNext : Statement .readNext := .inr fun _ _ => rfl
theorem reset : Statement .reset := .inr fun _ _ => rfl
theorem srcData (data : List Byte) : Statement (.srcData data) := .inl ⟨_, rfl⟩
theorem srcEmpty : Statement .srcEmpty := .inl ⟨_, rfl⟩
theorem srcEof (data : List Byte) : Statement (.srcEof data) := .inl ⟨_, rfl⟩
theorem srcErr (data : List Byte) (e : ErrCode) : Statement (.srcErr data e) := .inl ⟨_, rfl⟩
theorem srcBad (x : SrcResp) : Statement (.srcBad x) := .inl ⟨_, rfl⟩

end Sys2Proof.Laws.OnlyResponsesCanBeIllFormed
end

