-- ==== Sys2Proof/Laws/Run.lean ====
section
/-! SUPPORT. Runs: how `State.After` unfolds one step at a time and composes. -/

namespace Sys2Proof.Machine

theorem run_succ (M : Host.Core) (s : M.State) (k : Nat) :
    Host.Core.run M (k + 1) s =
      match M.step s with
      | .next t => Host.Core.run M k t
      | .fault f => .fault f
      | .refused f => .refused f := rfl

theorem run_succ_next (M : Host.Core) {s t : M.State} (k : Nat) (h : M.step s = .next t) :
    Host.Core.run M (k + 1) s = Host.Core.run M k t := by
  rw [run_succ, h]

/-- The first of `k + 1` steps answers a next state. -/
theorem run_succ_cases (M : Host.Core) {s u : M.State} {k : Nat}
    (h : Host.Core.run M (k + 1) s = .next u) :
    ∃ t, M.step s = .next t ∧ Host.Core.run M k t = .next u := by
  rw [run_succ] at h
  cases hs : M.step s with
  | next t => exact ⟨t, rfl, by rw [hs] at h; exact h⟩
  | fault f => rw [hs] at h; cases h
  | refused f => rw [hs] at h; cases h

theorem State.after_zero (s : State) : s.After 0 s := rfl

theorem State.after_zero_iff {s t : State} : s.After 0 t ↔ s = t :=
  ⟨fun h => by cases h; rfl, fun h => h ▸ rfl⟩

theorem State.after_succ_iff {s t u : State} {k : Nat} (h : step s = .next t) :
    s.After (k + 1) u ↔ t.After k u := by
  have e := run_succ_next Sys2Proof.core k h
  exact ⟨fun h' => e.symm.trans h', fun h' => e.trans h'⟩

theorem State.after_one {s t : State} (h : step s = .next t) : s.After 1 t :=
  (State.after_succ_iff h).2 t.after_zero

theorem State.after_succ_cases {s u : State} {k : Nat} (h : s.After (k + 1) u) :
    ∃ t, step s = .next t ∧ t.After k u := run_succ_cases Sys2Proof.core h

theorem State.after_trans {s t u : State} {j k : Nat} (h : s.After j t) (h' : t.After k u) :
    s.After (j + k) u := by
  induction j generalizing s with
  | zero =>
    rw [State.after_zero_iff] at h
    subst h
    simpa using h'
  | succ j ih =>
    obtain ⟨v, hv, hr⟩ := State.after_succ_cases h
    rw [Nat.add_right_comm]
    exact (State.after_succ_iff hv).2 (ih hr)

end Sys2Proof.Machine
end

