-- ==== Sys2Proof/Tests/Slice0.lean ====
section
/-! SUPPORT. Tests: the WellFormed smoke test, the words of the spec decoded, one step per test vector
of 95_test_vectors.md (named in each comment), and a witness for the hypotheses of every statement.
Every expected value is the spec's. -/

open Sys2Proof Sys2Proof.Machine

namespace Sys2Proof.Tests

/-! ### WellFormed refuses an ill-formed term, once for each check -/

/-- SRC.DATA needs `0 < n` (R84). -/
theorem test_wf_data_empty : (Instr.srcData []).wellFormed 16 32 = false := by decide

/-- SRC.DATA needs `n <= N`. -/
theorem test_wf_data_room : (Instr.srcData [1, 2]).wellFormed 1 32 = false := by decide

/-- SRC.EOF needs `n <= N`. -/
theorem test_wf_eof_room : (Instr.srcEof [1]).wellFormed 0 32 = false := by decide

/-- SRC.ERR needs `n <= N`. -/
theorem test_wf_err_room : (Instr.srcErr [1] 0).wellFormed 0 32 = false := by decide

/-- The code of SRC.ERR has `EW` bits (R6). -/
theorem test_wf_err_code : (Instr.srcErr [] 8).wellFormed 16 3 = false := by decide

/-- SRC.BAD needs `st = 3` or `n > N`. -/
theorem test_wf_bad : (Instr.srcBad ⟨[1], 0, 0⟩).wellFormed 16 32 = false := by decide

/-- The terms next to those are accepted. -/
theorem test_wf_accepts :
    (Instr.srcData [1]).wellFormed 1 32 = true ∧ (Instr.srcEof []).wellFormed 0 32 = true ∧
    (Instr.srcErr [] 7).wellFormed 0 3 = true ∧ (Instr.srcBad ⟨[1], 0, 0⟩).wellFormed 0 32 = true ∧
    (Instr.srcBad ⟨[], 3, 0⟩).wellFormed 16 32 = true := by decide

/-- An SB operation belongs to the phase of its row alone (R76). -/
theorem test_wf_phase :
    (Instr.lenC 0).inPhase .awaitHeader = false ∧ (Instr.lenT 0).inPhase .awaitPayload = false ∧
    (Instr.hdrC 0).inPhase .awaitLen = false ∧ (Instr.hdrT 0).inPhase .awaitPayload = false ∧
    (Instr.payB 0).inPhase .awaitLen = false ∧ (Instr.payB 0).inPhase .awaitPayload = true := by
  decide

/-! ### The words of the spec, written out bit by bit from the encodings of R70 -/

/-- `1ggggggg` in AWAIT_LEN. -/
theorem test_decode_lenC : decodeByte .awaitLen 0b10101100 = .lenC 0b0101100 := by decide

/-- `0ggggggg` in AWAIT_LEN. -/
theorem test_decode_lenT : decodeByte .awaitLen 0b00000010 = .lenT 0b0000010 := by decide

/-- `1ggggggg` in AWAIT_HEADER. -/
theorem test_decode_hdrC : decodeByte .awaitHeader 0b10100011 = .hdrC 0b0100011 := by decide

/-- `0ggggggg` in AWAIT_HEADER. -/
theorem test_decode_hdrT : decodeByte .awaitHeader 0b00000101 = .hdrT 0b0000101 := by decide

/-- `dddddddd` in AWAIT_PAYLOAD: bit 7 is data. -/
theorem test_decode_payB : decodeByte .awaitPayload 0b11100001 = .payB 0b11100001 := by decide

/-- `0`. -/
theorem test_decode_readNext : decodeCommand 0b0 = .readNext := by decide

/-- `1`. -/
theorem test_decode_reset : decodeCommand 0b1 = .reset := by decide

/-- `00` with `0 < n <= N`. -/
theorem test_decode_srcData : decodeResponse 2 ⟨[4, 5], 0b00, 0⟩ = .srcData [4, 5] := by decide

/-- `00` with `n = 0`. -/
theorem test_decode_srcEmpty : decodeResponse 2 ⟨[], 0b00, 0⟩ = .srcEmpty := by decide

/-- `01`. -/
theorem test_decode_srcEof : decodeResponse 2 ⟨[4], 0b01, 0⟩ = .srcEof [4] := by decide

/-- `10`. -/
theorem test_decode_srcErr : decodeResponse 2 ⟨[4], 0b10, 9⟩ = .srcErr [4] 9 := by decide

/-- `11`, and `n > N` with each other status. -/
theorem test_decode_srcBad :
    decodeResponse 2 ⟨[], 0b11, 0⟩ = .srcBad ⟨[], 3, 0⟩ ∧
    decodeResponse 0 ⟨[4], 0b00, 0⟩ = .srcBad ⟨[4], 0, 0⟩ ∧
    decodeResponse 0 ⟨[4], 0b01, 0⟩ = .srcBad ⟨[4], 1, 0⟩ ∧
    decodeResponse 0 ⟨[4], 0b10, 0⟩ = .srcBad ⟨[4], 2, 0⟩ := by decide

/-- The eight operations whose row has the encoding `-`. -/
theorem test_encode_none :
    [Instr.vreset, .emit, .deliver, .compact, .surface, .stallchk, .capchk, .fill].all
      (fun i => (encode i).isNone) = true := by decide

/-- The table's words, in the table's bit numbering. -/
theorem test_table_words :
    decodeTableWord 8 0b10000000 = some (.lenC 0) ∧ decodeTableWord 8 0b00000001 = some (.lenT 1) ∧
    decodeTableWord 1 0 = some .readNext ∧ decodeTableWord 1 1 = some .reset ∧
    decodeTableWord 2 0 = some .srcEmpty ∧ decodeTableWord 2 1 = some (.srcEof []) ∧
    decodeTableWord 2 2 = some (.srcErr [] 0) ∧ decodeTableWord 2 3 = some (.srcBad ⟨[], 3, 0⟩) ∧
    decodeTableWord 16 0 = none := by decide

/-- The decoder is total on any bytes and refuses by name where there is none. -/
theorem test_decode_stream :
    (match decodeStream .awaitLen [0xAC, 0x02] with
      | .ok (i, rest) => decide (i = .lenC 0x2C ∧ rest = [0x02])
      | .error _ => false) = true ∧
    (match decodeStream .awaitLen [] with
      | .ok _ => false
      | .error r => decide (r = .noByte)) = true := by decide

/-! ### One step, on small states -/

/-- What a step leaves, read through `f`; none when it stops. -/
def seen {α : Type} (o : Host.Outcome State Fault Refusal) (f : State → α) : Option α :=
  match o with
  | .next t => some (f t)
  | .fault _ => none
  | .refused _ => none

/-- The accumulator `(VAL, FAC, CNT)`. -/
def acc (s : State) : Nat × Nat × Nat := (s.val.toNat, s.fac.toNat, s.cnt.toNat)

/-- A running READ_NEXT with `bytes` unread from offset 0 on. -/
def running (bytes : List Byte) : State :=
  { State.reset with status := .busy, w := bytes.length, rbuf := Memory.write [] 0 bytes }

/-- A running READ_NEXT with the accumulator given. -/
def withAcc (v f : Word) (c : BitVec 4) : State :=
  { State.reset with status := .busy, val := v, fac := f, cnt := c }

/-- A running READ_NEXT in AWAIT_HEADER. -/
def inHeader (blen v f : Word) (c : BitVec 4) : State :=
  { withAcc v f c with phase := .awaitHeader, blen := blen }

/-- A running READ_NEXT in AWAIT_PAYLOAD. -/
def inPayload (hdr pmiss : Word) (r : Nat) (bytes : List Byte) : State :=
  { State.reset with
    status := .busy, phase := .awaitPayload, hdr := hdr, pmiss := pmiss, blen := pmiss
    r := r, w := r + bytes.length, rbuf := Memory.write [] r bytes }

/-- A running READ_NEXT with a SrcRead outstanding. -/
def waiting (answers : List SrcResp) : State :=
  { State.reset with status := .busy, loc := .srcWait, srcq := answers }

/-- The message of the worked example S1. -/
def ab : Message := { id := 42, channel := 3, data := [0x61, 0x62] }

/-- V3.3. -/
theorem test_lenC : seen (exec (.lenC 0) (running [0x80])) (fun t => (acc t, t.r, t.phase)) =
    some ((0, 128, 1), 1, .awaitLen) := by decide

/-- V3.6: the eleventh continuation byte. -/
theorem test_lenC_malformed : seen (exec (.lenC 0) { withAcc 0 0 10 with r := 10, w := 11 })
    (fun t => (acc t, t.r, t.resps, t.dead, t.status)) =
    some ((0, 0, 11), 11, [.error .malformed none], true, .idle) := by decide

/-- V3.4. -/
theorem test_lenT : seen (exec (.lenT 1) { withAcc 0 128 1 with r := 1 })
    (fun t => (t.blen.toNat, t.phase, acc t, t.r)) =
    some (128, .awaitHeader, (0, 1, 0), 2) := by decide

/-- V3.5: a zero-length frame in two bytes. -/
theorem test_lenT_zero : seen (exec (.lenT 0) { withAcc 0 128 1 with r := 1 })
    (fun t => (t.blen.toNat, t.phase, acc t, t.msgq)) =
    some (0, .awaitLen, (0, 1, 0), []) := by decide

/-- V3.7. -/
theorem test_hdrC : seen (exec (.hdrC 0x23) (inHeader 4 0 1 0)) (fun t => (acc t, t.phase)) =
    some ((35, 128, 1), .awaitHeader) := by decide

/-- V1.7: the weight of the second group. -/
theorem test_hdrC_second : seen (exec (.hdrC 0x7F) (inHeader 4 127 128 1)) acc =
    some (16383, 16384, 2) := by decide

/-- V3.8. -/
theorem test_hdrT : seen (exec (.hdrT 5) (inHeader 4 35 128 1))
    (fun t => ([t.hdr.toNat, t.blen.toNat, t.pmiss.toNat], t.phase, acc t)) =
    some ([675, 2, 2], .awaitPayload, (0, 1, 0)) := by decide

/-- V3.10: the body is shorter than its header. -/
theorem test_hdrT_malformed : seen (exec (.hdrT 0) (inHeader 1 0 128 1))
    (fun t => (t.blen.toNat, acc t, t.resps)) =
    some (1, (0, 128, 2), [.error .malformed none]) := by decide

/-- V3.15: the burst that ends the payload. -/
theorem test_payB : seen (exec (.payB 0x61) (inPayload 675 2 3 [0x61, 0x62]))
    (fun t => (t.msgq, t.r, t.phase, t.pmiss.toNat)) =
    some ([ab], 5, .awaitLen, 0) := by decide

/-- V3.17: a burst ends with the payload, and the bytes behind it stay unread. -/
theorem test_payB_stops : seen (exec (.payB 1) (inPayload 0 3 0 [1, 2, 3, 4, 5]))
    (fun t => (t.r, t.w, t.msgq.map (fun m => m.data))) = some (3, 5, [[1, 2, 3]]) := by decide

/-- V4.18. -/
theorem test_vreset : seen (exec .vreset (withAcc 675 128 2)) acc = some (0, 1, 0) := by decide

/-- V3.18. -/
theorem test_emit :
    seen (exec .emit { State.reset with hdr := 18446744073709551615, pay := [0x7A], blen := 1 })
      (fun t => (t.msgq, t.hdr.toNat, t.pay, t.blen.toNat)) =
    some ([{ id := 1152921504606846975, channel := 15, data := [0x7A] }], 0, [], 0) := by decide

/-- V4.4, with eight bytes instead of sixteen: the message, and what compaction leaves. -/
theorem test_deliver : seen (exec .deliver { running [5, 0x5A, 0x77, 0x78, 0x79, 0x7A, 9, 0xA3] with
      r := 6, msgq := [ab] })
    (fun t => (t.resps, t.w, t.status, [Memory.read t.rbuf 0, Memory.read t.rbuf 1])) =
    some ([.message ab], 2, .idle, [some 9, some 0xA3]) := by decide

/-- V4.1. -/
theorem test_compact :
    seen (exec .compact { running [5, 0x5A, 0x77, 0x78, 0x79, 0x7A, 9, 0xA3] with r := 6 })
      (fun t => (t.r, t.w, Memory.read t.rbuf 0, Memory.read t.rbuf 1)) =
    some (0, 2, some 9, some 0xA3) := by decide

/-- V4.5 and V4.6: an end of stream at a frame boundary, and inside a length varint. -/
theorem test_surface_end :
    seen (exec .surface { running [] with errk := some .endOfStream })
      (fun t => (t.resps, t.errk, t.dead)) = some ([.error .endOfStream none], none, true) ∧
    seen (exec .surface { withAcc 0 128 1 with errk := some .endOfStream }) (fun t => t.resps) =
      some [.error .unexpectedEndOfStream none] := by decide

/-- V4.10: no promotion of an I/O error. -/
theorem test_surface_source_error :
    seen (exec .surface { inHeader 4 0 1 0 with errk := some .sourceError, erre := 9 })
      (fun t => t.resps) = some [.error .sourceError (some 9)] := by decide

/-- V4.19. -/
theorem test_stallchk : seen (exec .stallchk (running [])) (fun t => (t.resps, t.loc)) =
    some ([], .capchk) := by decide

/-- V4.14 and V4.13: one byte too many, and equality. -/
theorem test_capchk :
    seen (exec .capchk { inPayload 0 12 0 [] with w := 5 }) (fun t => (t.resps, t.dead)) =
      some ([.error .shortBuffer none], true) ∧
    seen (exec .capchk { inPayload 0 12 0 [] with w := 4 }) (fun t => (t.resps, t.dead)) =
      some ([], false) := by decide

/-- V4.16: the sum does not wrap around. -/
theorem test_capchk_wide :
    seen (exec .capchk { inPayload 0 18446744073709551614 0 [] with w := 5 }) (fun t => t.resps) =
      some [.error .shortBuffer none] := by decide

/-- V5.2, its first half: compaction, then a SrcRead for the whole buffer. -/
theorem test_fill : seen (exec .fill { running [1, 2, 3, 4, 5] with r := 5, loc := .fill })
    (fun t => (t.r, t.w, t.loc, t.empties, t.offer)) =
    some (0, 0, .srcWait, 0, some 16) := by decide

/-- R179: a full buffer panics. -/
theorem test_fill_full : seen (exec .fill { running [] with w := 16 })
    (fun t => (t.status, t.pcause, t.resps)) = some (.fault, .full, []) := by decide

/-- L0 and its other case: V4.17. -/
theorem test_readNext :
    seen (exec .readNext State.reset) (fun t => (t.status, t.resps)) = some (.busy, []) ∧
    seen (exec .readNext { State.reset with dead := true }) (fun t => (t.status, t.resps)) =
      some (.idle, [.error .endOfStream none]) := by decide

/-- V6.4: refused in FAULT. -/
theorem test_readNext_refused :
    seen (exec .readNext { State.reset with status := .fault, pcause := .badRead })
      (fun t => (t.status, t.pcause, t.resps)) = some (.fault, .badRead, []) := by decide

/-- V6.3 and V6.5. -/
theorem test_reset :
    seen (exec .reset { withAcc 35 128 1 with dead := true, status := .idle, r := 3, w := 4 })
      (fun t => (acc t, t.dead, t.r, t.w)) = some ((0, 1, 0), false, 0, 0) ∧
    seen (exec .reset { State.reset with status := .fault }) (fun t => t.status) =
      some .idle := by decide

/-- V6.6. -/
theorem test_reset_refused : seen (exec .reset (waiting [])) (fun t => (t.status, t.loc)) =
    some (.busy, .srcWait) := by decide

/-- V5.1. -/
theorem test_srcData : seen (exec (.srcData [4, 0xA3, 5, 0x61, 0x62]) (waiting []))
    (fun t => (t.w, t.loc, Memory.read t.rbuf 0, Memory.read t.rbuf 4)) =
    some (5, .top, some 4, some 0x62) := by decide

/-- V5.12: the whole room. -/
theorem test_srcData_full :
    seen (exec (.srcData [1, 2, 3, 4, 5, 6, 7, 8, 9, 10, 11, 12, 13, 14, 15, 16]) (waiting []))
      (fun t => (t.w, t.status)) = some (16, .busy) := by decide

/-- V5.4: fifteen empty responses, no error. -/
theorem test_srcEmpty : seen (exec .srcEmpty { waiting [] with empties := 14 })
    (fun t => (t.empties, t.errk, t.loc)) = some (15, none, .srcWait) := by decide

/-- V5.5: the sixteenth. -/
theorem test_srcEmpty_last : seen (exec .srcEmpty { waiting [] with empties := 15 })
    (fun t => (t.errk, t.loc)) = some (some .noProgress, .top) := by decide

/-- V5.6 and V5.7. -/
theorem test_srcEof :
    seen (exec (.srcEof []) (waiting [])) (fun t => (t.errk, t.w)) = some (some .endOfStream, 0) ∧
    seen (exec (.srcEof [0x61, 0x62]) (waiting []))
      (fun t => (t.errk, t.w, Memory.read t.rbuf 1)) =
      some (some .endOfStream, 2, some 0x62) := by decide

/-- V5.8 and V5.9. -/
theorem test_srcErr :
    seen (exec (.srcErr [] 9) (waiting [])) (fun t => (t.errk, t.erre)) =
      some (some .sourceError, 9) ∧
    seen (exec (.srcErr [0x61] 9) (waiting [])) (fun t => (t.w, t.errk, t.erre)) =
      some (1, some .sourceError, 9) := by decide

/-- V5.11. -/
theorem test_srcBad : seen (exec (.srcBad ⟨[], 3, 0⟩) (waiting []))
    (fun t => (t.status, t.pcause, t.resps, t.w)) = some (.fault, .badRead, [], 0) := by decide

/-- V5.10 through the step: a response with one byte more than the room. -/
theorem test_step_srcBad :
    seen (step { waiting [⟨[1, 2], 0, 0⟩] with w := 15, r := 15 }) (fun t => (t.status, t.pcause, t.w)) =
      some (.fault, .badRead, 15) := by decide

/-- The fetch fixture, from reset: the very next step runs the word. -/
theorem test_fetch_word :
    seen (step (State.reset.withFetchWord 8 0xA3)) (fun t => (acc t, t.r)) =
      some ((35, 128, 1), 1) ∧
    seen (step (State.reset.withFetchWord 1 0)) (fun t => t.status) = some .busy ∧
    seen (step (State.reset.withFetchWord 2 1)) (fun t => t.errk) = some (some .endOfStream) := by
  decide

/-- R26: `IDXW = ceil(log2(CAP+1))`, on both sides of a power of two. -/
theorem test_idxw : [0, 1, 2, 3, 4, 7, 8, 15, 16, 31, 32].map
    (fun cap => { Config.defaults with cap := cap }.idxw) = [0, 1, 2, 2, 3, 3, 4, 4, 5, 5, 6] := by decide

/-- R7: R has five bits with CAP = 16, so 31 is followed by 0 (in a state that no run reaches). -/
theorem test_index_wraps : seen (exec (.lenC 0) { running [] with r := 31 }) (fun t => t.r) = some 0 := by
  decide

/-- R20: EMPTIES has five bits with MAX_EMPTY_READS = 16, so 31 is followed by 0 (in a state that no run
reaches). -/
theorem test_empties_wraps : seen (exec .srcEmpty { waiting [] with empties := 31 })
    (fun t => (t.empties, t.loc)) = some (0, .srcWait) := by decide

/-- R241: RESET leaves every byte of the buffer unspecified anew. -/
theorem test_reset_unspecified : seen (exec .reset { running [1, 2] with status := .idle })
    (fun t => (t.rbuf, t.resets)) = some ([], 1) := by decide

/-! ### Witnesses: a state and operands that meet the hypotheses of each statement, clause by clause -/

theorem witness_PhaseAndFlag : 128 ≤ (0x80 : Byte).toNat ∧ 128 ≤ (0xFF : Byte).toNat ∧
    (0x7F : Byte).toNat < 128 ∧ (0x00 : Byte).toNat < 128 := by decide

theorem witness_DecodeInvertsEncode :
    (Instr.srcErr [1] 7).wellFormed 1 3 = true ∧ (Instr.srcErr [1] 7).inPhase .awaitHeader = true ∧
    (Instr.hdrT 127).wellFormed 0 0 = true ∧ (Instr.hdrT 127).inPhase .awaitHeader = true := by decide

theorem witness_ResponseStatus :
    ((⟨[], 3, 0⟩ : SrcResp).st.toNat = 3 ∧ 16 < (List.replicate 17 (0 : Byte)).length) ∧
    ((⟨[1], 0, 0⟩ : SrcResp).st.toNat = 0 ∧ 0 < [(1 : Byte)].length ∧ [(1 : Byte)].length ≤ 1) ∧
    ((⟨[], 0, 0⟩ : SrcResp).st.toNat = 0 ∧ ([] : List Byte).length = 0) ∧
    ((⟨[1], 1, 0⟩ : SrcResp).st.toNat = 1 ∧ [(1 : Byte)].length ≤ 1) ∧
    ((⟨[1], 2, 0⟩ : SrcResp).st.toNat = 2 ∧ [(1 : Byte)].length ≤ 1) := by decide

theorem witness_ReferenceVarint : 1 ≤ 1 ∧ (127 : Word).toNat < 2 ^ (7 * 1) ∧
    ¬ (128 : Word).toNat < 2 ^ (7 * 1) := by decide

/-- A running READ_NEXT at the top of its loop. -/
theorem running_parsing (bytes : List Byte) : (running bytes).Parsing :=
  ⟨rfl, rfl, rfl, fun _ h => nomatch h⟩

theorem witness_StepRunsTheByte : (running [0xAC]).Parsing ∧ (running [0xAC]).r < (running [0xAC]).w ∧
    (running [0xAC]).r < (running [0xAC]).params.cap ∧
    (running [0xAC]).byteAt (running [0xAC]).r = 0xAC :=
  ⟨running_parsing _, by decide⟩

/-- The five places of the loop. -/
theorem witness_DriveLoopOrder :
    ((running []).status = .busy ∧ (running []).Orderly) ∧
    ({ running [] with msgq := [ab] }.loc = .top ∧ { running [] with msgq := [ab] }.msgq ≠ []) ∧
    ((running []).w ≤ (running []).r ∧ (running []).msgq = [] ∧ (running []).errk = none) ∧
    ({ running [] with errk := some ErrKind.endOfStream }.errk ≠ none) ∧
    ({ running [] with loc := Loc.capchk }.loc = .capchk) ∧
    ({ running [] with loc := Loc.fill }.loc = .fill) :=
  ⟨⟨rfl, fun _ h => nomatch h⟩, by decide⟩

theorem witness_StepRunsTheHostCommand :
    ({ State.reset with hostq := [⟨0, false⟩] }.hostq = ⟨0, false⟩ :: [] ∧ State.reset.status ≠ .busy) ∧
    ({ running [] with hostq := [⟨1, true⟩] }.hostq = ⟨1, true⟩ :: []) := by decide

theorem witness_StepRunsTheSourceResponse :
    (waiting [⟨[4], 0, 0⟩]).status = .busy ∧ (waiting [⟨[4], 0, 0⟩]).loc = .srcWait ∧
    (waiting [⟨[4], 0, 0⟩]).Orderly ∧ (waiting [⟨[4], 0, 0⟩]).srcq = ⟨[4], 0, 0⟩ :: [] :=
  ⟨rfl, rfl, fun _ h => (nomatch h), rfl⟩

theorem witness_WaitingBlock :
    (State.reset.status ≠ .busy ∧ State.reset.hostq = []) ∧
    ((waiting []).status = .busy ∧ (waiting []).Orderly ∧ (waiting []).loc = .srcWait ∧
      (waiting []).srcq = []) :=
  ⟨⟨by decide, rfl⟩, rfl, fun _ h => (nomatch h), rfl, rfl⟩

theorem witness_FetchWord : 1 ≤ State.reset.params.cap ∧
    decodeTableWord 8 0x80 = some (.lenC 0) ∧ decodeTableWord 1 1 = some .reset ∧
    decodeTableWord 2 3 = some (.srcBad ⟨[], 3, 0⟩) := by decide

theorem witness_ContinuationByte : (withAcc 0 9223372036854775808 9).cnt.toNat ≤ 9 := by decide

theorem witness_EleventhContinuationByte : (withAcc 0 0 10).cnt.toNat = 10 := by decide

/-- V3.4 and V3.5: the same state and the two groups that give each case of the value. -/
theorem witness_LengthTerminator :
    ((withAcc 0 128 1).val.toNat + (0 : Group).toNat * (withAcc 0 128 1).fac.toNat) % 2 ^ 64 = 0 ∧
    ((withAcc 0 128 1).val.toNat + (1 : Group).toNat * (withAcc 0 128 1).fac.toNat) % 2 ^ 64 ≠ 0 := by
  decide

/-- Two states that differ in the buffer, the indices and the slot, with one set of parser
registers. -/
theorem witness_VarintBytesDepend :
    Instr.hdrT 5 ∈ [Instr.lenC 5, .lenT 5, .hdrC 5, .hdrT 5] ∧
    (fun s : State => [s.val, s.fac, s.blen, s.hdr, s.pmiss]) (inHeader 4 35 128 1) =
      (fun s : State => [s.val, s.fac, s.blen, s.hdr, s.pmiss])
        { inHeader 4 35 128 1 with r := 7, w := 9, errk := some .endOfStream, rbuf := [(7, 5)] } := by
  decide

/-- The buffer of `running` holds its bytes. -/
theorem running_buffered (bytes : List Byte) (h : bytes.length ≤ 16) :
    (running bytes).Buffered bytes := by
  refine ⟨by simp [running, State.reset], by simpa [running, State.reset, Config.defaults] using h,
    fun i hi => ?_⟩
  simp [running, State.reset, State.byteAt, Memory.byteAt_write, hi]

theorem witness_LengthVarintRoundTrip : (running (varintEnc 300)).Parsing ∧
    (running (varintEnc 300)).phase = .awaitLen ∧ (running (varintEnc 300)).val = 0 ∧
    (running (varintEnc 300)).fac = 1 ∧ (running (varintEnc 300)).cnt = 0 ∧
    (running (varintEnc 300)).Buffered (varintEnc 300) :=
  ⟨running_parsing _, rfl, rfl, rfl, rfl, running_buffered _ (by decide)⟩

/-- V3.8, and the inclusive bound, V3.13. -/
theorem witness_HeaderTerminatorBegins :
    ((inHeader 4 35 128 1).cnt.toNat ≤ 10 ∧
      (inHeader 4 35 128 1).cnt.toNat + 1 < (inHeader 4 35 128 1).blen.toNat ∧
      (inHeader 4 35 128 1).blen.toNat - ((inHeader 4 35 128 1).cnt.toNat + 1) ≤ 8388608) ∧
    ((inHeader 8388609 0 1 0).blen.toNat - ((inHeader 8388609 0 1 0).cnt.toNat + 1) ≤
      (inHeader 8388609 0 1 0).params.maxMessageSize) := by decide

/-- V3.9. -/
theorem witness_HeaderTerminatorEmits : (inHeader 1 0 1 0).cnt.toNat ≤ 10 ∧
    (inHeader 1 0 1 0).blen.toNat = (inHeader 1 0 1 0).cnt.toNat + 1 := by decide

/-- V3.10. -/
theorem witness_HeaderLongerThanBody : (inHeader 1 0 128 1).cnt.toNat ≤ 10 ∧
    (inHeader 1 0 128 1).blen.toNat < (inHeader 1 0 128 1).cnt.toNat + 1 := by decide

/-- V3.12, the first length past the bound. -/
theorem witness_PayloadAboveTheMaximum : (inHeader 8388610 0 1 0).cnt.toNat ≤ 10 ∧
    (inHeader 8388610 0 1 0).cnt.toNat + 1 ≤ (inHeader 8388610 0 1 0).blen.toNat ∧
    (inHeader 8388610 0 1 0).params.maxMessageSize <
      (inHeader 8388610 0 1 0).blen.toNat - ((inHeader 8388610 0 1 0).cnt.toNat + 1) := by decide

theorem payload_buffered (hdr pmiss : Word) (bytes : List Byte) (h : bytes.length ≤ 16) :
    (inPayload hdr pmiss 0 bytes).Buffered bytes := by
  refine ⟨by simp [inPayload], by simpa [inPayload, State.reset, Config.defaults] using h,
    fun i hi => ?_⟩
  simp [inPayload, State.reset, State.byteAt, Memory.byteAt_write, hi]

/-- One byte is still missing behind the burst. -/
theorem witness_PayloadBurst : (inPayload 0 3 0 [1, 2]).Buffered [1, 2] ∧
    [(1 : Byte), 2].length =
      min (inPayload 0 3 0 [1, 2]).pmiss.toNat
        ((inPayload 0 3 0 [1, 2]).w - (inPayload 0 3 0 [1, 2]).r) ∧
    [(1 : Byte), 2].length < (inPayload 0 3 0 [1, 2]).pmiss.toNat :=
  ⟨payload_buffered _ _ _ (by decide), by decide⟩

/-- The burst is the rest of the payload. -/
theorem witness_LastPayloadBurst : (inPayload 675 2 0 [0x61, 0x62]).Buffered [0x61, 0x62] ∧
    (inPayload 675 2 0 [0x61, 0x62]).pmiss.toNat = [(0x61 : Byte), 0x62].length :=
  ⟨payload_buffered _ _ _ (by decide), by decide⟩

theorem witness_Compact : (running [1]).r ≤ (running [1]).w ∧
    { running [1] with r := 1 }.r ≤ (running [1]).w ∧
    (running [1]).w < 2 ^ (running [1]).params.idxw := by decide

theorem witness_Deliver : { running [1] with msgq := [ab] }.msgq = ab :: [] ∧
    (running [1]).r ≤ (running [1]).w ∧ (running [1]).w < 2 ^ (running [1]).params.idxw := by decide

/-- V4.5, V4.6, V4.7 and V4.10. -/
theorem witness_Surface :
    ({ running [] with errk := some ErrKind.endOfStream }.errk = some .endOfStream ∧
      (running []).phase = .awaitLen ∧ (running []).cnt.toNat = 0) ∧
    (0 < (withAcc 0 128 1).cnt.toNat) ∧ ((inHeader 4 0 1 0).phase ≠ .awaitLen) ∧
    (ErrKind.sourceError ≠ .endOfStream) := by decide

/-- V4.14, V4.13 and V4.15. -/
theorem witness_CapacityCheck :
    ((inPayload 0 12 0 []).phase = .awaitPayload ∧ 16 < 5 + (inPayload 0 12 0 []).pmiss.toNat) ∧
    (4 + (inPayload 0 12 0 []).pmiss.toNat ≤ (inPayload 0 12 0 []).params.cap) ∧
    ((inHeader 1000 0 1 0).phase ≠ .awaitPayload) := by decide

theorem witness_NothingToDeliver : State.reset.msgq = [] ∧ State.reset.errk = none := by decide

/-- A burst over a byte that nothing has written, a burst and a fetch at the end of RBUF; what lies
behind it is in no state that a run reaches. -/
theorem witness_OnlyBytesThatDoNotExist :
    (0 + min { inPayload 0 2 0 [1] with w := 2 }.pmiss.toNat (2 - 0) ≤
      { inPayload 0 2 0 [1] with w := 2 }.params.cap) ∧
    (2 ≤ min { inPayload 0 2 15 [1] with w := 17 }.pmiss.toNat (17 - 15) ∧
      { inPayload 0 2 15 [1] with w := 17 }.params.cap <
        15 + min { inPayload 0 2 15 [1] with w := 17 }.pmiss.toNat (17 - 15)) ∧
    { running [] with r := 16, w := 17 }.Parsing ∧
    { running [] with r := 16, w := 17 }.params.cap ≤ { running [] with r := 16, w := 17 }.r :=
  ⟨by decide, by decide, ⟨rfl, rfl, rfl, fun _ h => (nomatch h)⟩, by decide⟩

theorem witness_FillCompacts : { running [1] with r := 1 }.r ≤ (running [1]).w ∧
    (running [1]).w < 2 ^ (running [1]).params.idxw ∧
    (running [1]).w - 1 < (running [1]).params.cap ∧ 1 ≤ (running [1]).params.maxEmptyReads := by decide

/-- Full with `R = 0`; full with `R > 0`, which W's five bits allow; no read allowed with `R > 0`, with
nothing unread and one byte short of full. -/
theorem witness_FillWithoutRoom :
    ({ running [] with w := 16 }.w < 2 ^ (running []).params.idxw ∧ (running []).params.cap ≤ 16 - 0) ∧
    ({ running [] with r := 15, w := 31 }.w < 2 ^ (running []).params.idxw ∧
      (running []).params.cap ≤ 31 - 15) ∧
    { running [1] with r := 1, params := { Config.defaults with maxEmptyReads := 0 } }.r ≤
      (running [1]).w ∧
    { running [1] with params := { Config.defaults with maxEmptyReads := 0 } }.params.maxEmptyReads = 0 ∧
    (running [1]).w - 1 < (running [1]).params.cap ∧
    ({ running [] with r := 1, w := 16 }.w < 2 ^ (running []).params.idxw ∧
      16 - 1 < (running []).params.cap) := by decide

/-- One byte, and the whole room. -/
theorem witness_SourceData : 1 ≤ [(1 : Byte)].length ∧
    { waiting [] with w := 15 }.w + [(1 : Byte)].length ≤ (waiting []).params.cap ∧
    (waiting []).w + (List.replicate 16 (0 : Byte)).length ≤ (waiting []).params.cap := by decide

theorem witness_SourceEmpty : (waiting []).w ≤ (waiting []).params.cap ∧
    (14 + 1) % 2 ^ (waiting []).params.emptiesw < (waiting []).params.maxEmptyReads ∧
    (waiting []).params.maxEmptyReads ≤ (15 + 1) % 2 ^ (waiting []).params.emptiesw := by decide

theorem witness_SourceEof : (waiting []).w + ([] : List Byte).length ≤ (waiting []).params.cap ∧
    (waiting []).w + (List.replicate 16 (0 : Byte)).length ≤ (waiting []).params.cap := by decide

theorem witness_SourceError : (waiting []).w + [(1 : Byte)].length ≤ (waiting []).params.cap ∧
    4294967295 < 2 ^ (waiting []).params.ew := by decide

/-- A reserved status, and one byte more than the room. -/
theorem witness_ResponseOutside :
    ((waiting [⟨[], 3, 0⟩]).status = .busy ∧ (waiting [⟨[], 3, 0⟩]).loc = .srcWait ∧
      (waiting [⟨[], 3, 0⟩]).Orderly ∧ (waiting [⟨[], 3, 0⟩]).srcq = ⟨[], 3, 0⟩ :: [] ∧
      (⟨[], 3, 0⟩ : SrcResp).st.toNat = 3) ∧
    (waiting []).params.cap - (waiting []).w < (List.replicate 17 (0 : Byte)).length :=
  ⟨⟨rfl, rfl, fun _ h => (nomatch h), rfl, by decide⟩, by decide⟩

/-- Two empty answers left, one more behind them. -/
def twoLeft : State := { waiting (List.replicate 3 ⟨[], 0, 0⟩) with empties := 14 }

theorem witness_EmptyReads : twoLeft.status = .busy ∧ twoLeft.loc = .srcWait ∧ twoLeft.Orderly ∧
    twoLeft.w ≤ twoLeft.params.cap ∧
    (∀ x ∈ List.replicate 2 (⟨[], 0, 0⟩ : SrcResp), x.data = [] ∧ x.st = 0) ∧
    List.replicate 2 (⟨[], 0, 0⟩ : SrcResp) ≠ [] ∧
    twoLeft.empties + (List.replicate 2 (⟨[], 0, 0⟩ : SrcResp)).length = twoLeft.params.maxEmptyReads ∧
    twoLeft.srcq = List.replicate 2 ⟨[], 0, 0⟩ ++ [⟨[], 0, 0⟩] :=
  ⟨rfl, rfl, fun _ h => (nomatch h), by decide, by decide, by decide, by decide, rfl⟩

theorem witness_ReadNext : State.reset.status = .idle ∧ State.reset.dead = false ∧
    { State.reset with dead := true }.dead = true := by decide

theorem witness_Reset : State.reset.status ≠ .busy ∧
    { State.reset with status := Status.fault }.status ≠ .busy := by decide

theorem witness_Unaccepted : (waiting []).status = .busy ∧
    { State.reset with status := Status.fault }.status = .fault := by decide

theorem witness_DeadBlock :
    { State.reset with dead := true, hostq := [⟨0, false⟩, ⟨0, true⟩] }.status = .idle ∧
    { State.reset with dead := true, hostq := [⟨0, false⟩, ⟨0, true⟩] }.loc = .top ∧
    { State.reset with dead := true, hostq := [⟨0, false⟩, ⟨0, true⟩] }.dead = true ∧
    ∀ ev ∈ [(⟨0, false⟩ : HostEvent), ⟨0, true⟩], ev.cmd = 0 := by decide

/-- A state in the middle of a run that meets the invariants: a header varint one byte long so far,
its terminator unread. -/
def midHeader : State :=
  { inHeader 4 35 128 1 with r := 2, w := 3, rbuf := [(0, 4), (1, 0xA3), (2, 5)] }

theorem midHeader_inv : midHeader.Inv where
  params := by decide
  index := by constructor <;> decide
  buffer := by
    refine ⟨by decide, fun i hi => ?_, fun i h1 h2 => ?_⟩
    · have h : 16 ≤ i := hi
      have h0 : ¬ 0 = i := by omega
      have h1 : ¬ 1 = i := by omega
      have h2 : ¬ 2 = i := by omega
      simp [midHeader, Memory.read_cons, h0, h1, h2]
    · have h : i = 2 := by
        have h1 : 2 ≤ i := h1
        have h2 : i < 3 := h2
        omega
      subst h
      rfl
  acc := fun _ => by refine ⟨?_, ?_, fun _ => ?_⟩ <;> decide
  frame := fun _ => ⟨by decide, rfl, rfl, rfl⟩
  slot := ⟨.inl rfl, Nat.two_pow_pos _⟩
  queue := ⟨by decide, fun h => absurd rfl h⟩
  loop := ⟨fun h => absurd rfl h, fun _ => rfl, trivial⟩
  empties := by decide

/-- From it a step answers a next state, in another phase: the hypotheses of StepKeepsTheInvariants,
StepNeverStops, PhaseMovesOnlyAtFrameUnits, AtMostOneResponseAStep, ReadNextEndsOrWaitsForTheSource. -/
theorem witness_StepKeeps : midHeader.Inv ∧ midHeader.status = .busy ∧ midHeader.Orderly ∧
    (∃ i s', midHeader.nextOp = .ok (some (i, s'))) ∧
    ∃ t, step midHeader = .next t ∧ t.phase ≠ midHeader.phase :=
  ⟨midHeader_inv, rfl, fun _ h => (nomatch h), ⟨_, _, rfl⟩, _, rfl, by decide⟩

/-- An operation that answers a next state from a canonical buffer: EveryOperationKeepsTheBufferCanonical,
NoOperationChangesAParameter, OnlySourceAndCompactionWriteTheBuffer. -/
theorem witness_ExecNext : Memory.wf midHeader.rbuf = true ∧
    (∃ t, exec .compact midHeader = .next t) ∧ ∃ t, exec (.srcData [7]) midHeader = .next t :=
  ⟨by decide, ⟨_, rfl⟩, _, rfl⟩

/-- The largest index register CAP = 16 has, and the largest of the other two registers, before an operation that wraps it and one that does not. -/
theorem witness_ParameterWidths : { running [] with r := 31 }.r < 2 ^ (running []).params.idxw ∧
    (running []).w < 2 ^ (running []).params.idxw ∧ 31 < 2 ^ (running []).params.emptiesw ∧
    4294967295 < 2 ^ (running []).params.ew ∧
    (∃ t, exec (.lenT 0) { running [] with r := 31 } = .next t) ∧
    ∃ t, exec .compact { running [] with r := 31 } = .next t :=
  ⟨by decide, by decide, by decide, by decide, ⟨_, rfl⟩, _, rfl⟩

theorem witness_OnlyReset : { midHeader with dead := true }.dead = true ∧
    (∃ t, exec .emit { midHeader with dead := true } = .next t) ∧
    ∃ t, exec .reset { midHeader with dead := true, status := .idle } = .next t :=
  ⟨rfl, ⟨_, rfl⟩, _, rfl⟩

/-- A clean end of stream waiting in the slot. -/
def cleanEnd : State := { running [] with errk := some .endOfStream }

theorem cleanEnd_inv : cleanEnd.Inv where
  params := by decide
  index := by constructor <;> decide
  buffer := ⟨rfl, fun _ _ => rfl, fun _ _ h => absurd h (Nat.not_lt_zero _)⟩
  acc := fun _ => by refine ⟨?_, ?_, fun _ => ?_⟩ <;> decide
  frame := fun _ => ⟨rfl, rfl, rfl, rfl⟩
  slot := ⟨.inr (.inl rfl), Nat.two_pow_pos _⟩
  queue := ⟨by decide, fun h => absurd rfl h⟩
  loop := ⟨fun h => absurd rfl h, fun _ => rfl, trivial⟩
  empties := by decide

theorem witness_EndOfStream : cleanEnd.Inv ∧ cleanEnd.dead = false ∧
    ∃ t, step cleanEnd = .next t ∧ t.resps = cleanEnd.resps ++ [.error .endOfStream none] :=
  ⟨cleanEnd_inv, rfl, _, rfl, rfl⟩

/-- A block in FAULT for which the premises hold, and a source within its contract. -/
theorem witness_NoPanic :
    { cleanEnd with errk := none, status := .fault }.Inv ∧
    (∀ x ∈ [(⟨[1], 1, 0⟩ : SrcResp)], InContract x 16) ∧
    ∃ t, step { cleanEnd with errk := none, status := .fault } = .next t ∧
      t.status = .fault :=
  ⟨{ params := cleanEnd_inv.params, index := cleanEnd_inv.index, buffer := cleanEnd_inv.buffer
     acc := cleanEnd_inv.acc, frame := cleanEnd_inv.frame
     slot := ⟨.inl rfl, Nat.two_pow_pos _⟩
     queue := ⟨by decide, fun h => absurd rfl h⟩
     loop := ⟨fun _ => rfl, fun h => (nomatch h), trivial⟩
     empties := cleanEnd_inv.empties },
   by simp [InContract, SrcResp.n], _, rfl, rfl⟩

/-- Two buffers that agree on `[R, W)` and differ below it, and a state that stops. -/
theorem witness_Stale : (∀ a, midHeader.r ≤ a → a < midHeader.w →
      Memory.byteAt [(0, 9), (2, 5)] midHeader.resets a = midHeader.byteAt a) ∧
    (∃ t, step midHeader = .next t) ∧
    ∃ f, step { running [] with r := 16, w := 17 } = .fault f := by
  refine ⟨fun a h1 h2 => ?_, Exists.intro _ rfl, Exists.intro _ rfl⟩
  have h1 : 2 ≤ a := h1
  have h2 : a < 3 := h2
  have h : a = 2 := by omega
  subst h
  rfl

/-- The frame of S1. -/
theorem witness_FrameRoundTrip : (running (msgEnc ab)).Parsing ∧ (running (msgEnc ab)).AtBoundary ∧
    (running (msgEnc ab)).Buffered (msgEnc ab) ∧
    ab.data.length ≤ (running (msgEnc ab)).params.maxMessageSize ∧ (bodyEnc ab).length < 2 ^ 64 :=
  ⟨running_parsing _, ⟨rfl, rfl, rfl, rfl, rfl, rfl, rfl, rfl⟩, running_buffered _ (by decide),
    by decide, by decide⟩

/-- The encoding of S1 is the five bytes the spec gives. -/
theorem test_msgEnc : msgEnc ab = [0x04, 0xA3, 0x05, 0x61, 0x62] := by decide

/-- S4's chunks, the frame of S1 one byte at a time. -/
def s4Chunks : List (List Byte) := [[0x04], [0xA3], [0x05], [0x61], [0x62]]

/-- S4: those chunks, an end of stream behind them, and one READ_NEXT. -/
def s4 : State :=
  { State.reset with
    hostq := [⟨0, false⟩]
    srcq := s4Chunks.map (fun chunk => ⟨chunk, 0, 0⟩) ++ [⟨[], 1, 0⟩] }

theorem witness_FrameIsDelivered :
    s4.params.Legal ∧ s4.status = .idle ∧ s4.loc = .top ∧ s4.dead = false ∧ s4.errk = none ∧
    s4.msgq = [] ∧ s4.AtBoundary ∧ s4.r = 0 ∧ s4.w = 0 ∧ s4.hostq = ⟨0, false⟩ :: [] ∧
    (∀ chunk ∈ s4Chunks, chunk ≠ []) ∧ s4Chunks.flatten = msgEnc ab ∧
    (msgEnc ab).length ≤ s4.params.cap ∧ ab.data.length ≤ s4.params.maxMessageSize ∧
    (bodyEnc ab).length < 2 ^ 64 ∧
    s4.srcq = s4Chunks.map (fun chunk => ⟨chunk, 0, 0⟩) ++ [⟨[], 1, 0⟩] :=
  ⟨by decide, rfl, rfl, rfl, rfl, rfl, ⟨rfl, rfl, rfl, rfl, rfl, rfl, rfl, rfl⟩, rfl, rfl, rfl,
    by decide, by decide, by decide, by decide, by decide, rfl⟩

end Sys2Proof.Tests
end

section
/-! PROOFS. Which operations answer a next state, and that the drive loop issues no other (O47). -/

namespace Sys2Proof.Machine

/-! ### What an operation can answer, where `Laws/Meanings.lean` does not say it for every state -/

/-- The three ways of HDR.T (R124) whatever the count: `execHdrT_cases` says, for a count that an
accumulator can hold, which of them it is. -/
theorem execHdrT_ways (g : Group) (s : State) :
    execHdrT g s = .next ({ s.vbT g with hdr := (s.vbT g).val }.raise .malformed none) ∨
    ∃ len : Word,
      execHdrT g s =
        .next ({ s.vbT g with hdr := (s.vbT g).val, blen := len }.raise .oversize none) ∨
      execHdrT g s =
        .next ({ s.vbT g with hdr := (s.vbT g).val }.beginPayload len).emitIfComplete := by
  unfold execHdrT
  dsimp only
  split
  · exact .inl rfl
  · refine .inr ⟨(s.vbT g).blen - (s.vbT g).cnt.setWidth 64, ?_⟩
    split
    · exact .inl rfl
    · exact .inr rfl

/-- The three ways of READ_NEXT: the answer of a DEAD block, the start of the loop, a refusal. -/
theorem execReadNext_cases (s : State) :
    execReadNext s = .next (s.respond (.error .endOfStream none)) ∨
    execReadNext s = .next { s with status := .busy, loc := .top } ∨
    execReadNext s = .next s := by
  unfold execReadNext
  split
  · split
    · exact .inl rfl
    · exact .inr (.inl rfl)
  · exact .inr (.inr rfl)
  · exact .inr (.inr rfl)

/-- The two ways of RESET: accepted or refused. -/
theorem execReset_cases (s : State) :
    execReset s = .next s.cleared ∨ execReset s = .next s := by
  unfold execReset
  split
  · exact .inl rfl
  · exact .inr rfl
  · exact .inl rfl

/-! ### When an operation answers a next state -/

theorem execHdrT_answers (g : Group) (s : State) : ∃ t, execHdrT g s = .next t := by
  rcases execHdrT_ways g s with e | ⟨_, e | e⟩ <;> exact ⟨_, e⟩

theorem execReadNext_answers (s : State) : ∃ t, execReadNext s = .next t := by
  rcases execReadNext_cases s with e | e | e <;> exact ⟨_, e⟩

theorem execReset_answers (s : State) : ∃ t, execReset s = .next t := by
  rcases execReset_cases s with e | e <;> exact ⟨_, e⟩

theorem execCapchk_answers (s : State) : ∃ t, execCapchk s = .next t := by
  rcases execCapchk_cases s with ⟨_, _, _, e⟩ | ⟨_, _, e⟩ <;> exact ⟨_, e⟩

theorem execFill_answers (s : State) : ∃ t, execFill s = .next t := by
  rcases execFill_cases s with ⟨_, e⟩ | ⟨_, _, e⟩ | ⟨_, _, e⟩ <;> exact ⟨_, e⟩

theorem execDeliver_answers {s : State} (h : s.msgq ≠ []) : ∃ t, execDeliver s = .next t := by
  obtain ⟨m, rest, hq⟩ := List.exists_cons_of_ne_nil h
  simp [execDeliver, hq]

theorem execSurface_answers {s : State} (h : s.errk ≠ none) : ∃ t, execSurface s = .next t := by
  obtain ⟨k, hk⟩ := Option.ne_none_iff_exists'.1 h
  simp [execSurface, hk]

/-- A burst stops only when it extends to `CAP` or beyond (R32, R50). -/
theorem State.burst_error {s : State} {d : Byte} {f : Fault} (h : s.burst d = .error f) :
    s.params.cap < s.r + s.burstLen := by
  unfold State.burst at h
  split at h
  · cases h
  · rename_i k hk
    split at h
    · rename_i g hg
      have := (State.readBytes_error hg).1
      omega
    · cases h

/-- PAY.B answers where `R <= W <= CAP`: a burst ends at `W` or before it. -/
theorem execPayB_answers (d : Byte) {s : State} (hi : s.IndexInv) :
    ∃ t, execPayB d s = .next t := by
  obtain ⟨hrw, hwc⟩ := hi
  rcases execPayB_cases d s with ⟨f, hf, _⟩ | ⟨_, _, _, _, _, ⟨_, e⟩ | ⟨_, e⟩⟩
  · have hlen := s.burstLen_le.2
    have hstop := State.burst_error hf
    omega
  · exact ⟨_, e⟩
  · exact ⟨_, e⟩

theorem exec_decodeCommand_answers (c : BitVec 1) (s : State) :
    ∃ t, exec (decodeCommand c) s = .next t := by
  unfold decodeCommand
  split
  · exact execReadNext_answers s
  · exact execReset_answers s

/-- Whichever operation a stream byte selects (R76), it answers where `R <= W <= CAP`. -/
theorem exec_decodeByte_answers (p : Phase) (b : Byte) {s : State} (hi : s.IndexInv) :
    ∃ t, exec (decodeByte p b) s = .next t := by
  rcases decodeByte_cases p b with ⟨_, g, e | e⟩ | ⟨_, g, e | e⟩ | ⟨_, e⟩ <;> rw [e]
  · exact ⟨_, rfl⟩
  · exact ⟨_, rfl⟩
  · exact ⟨_, rfl⟩
  · exact execHdrT_answers g s
  · exact execPayB_answers b hi

/-! ### The sequencer -/

/-- The fetch is the one way the sequencer stops: at an unread byte that RBUF does not have. -/
theorem State.loopNext_error {s : State} {f : Fault} (h : s.loopNext = .error f) :
    s.r < s.w ∧ s.params.cap ≤ s.r := by
  unfold State.loopNext State.loopTop at h
  split at h
  · split at h
    · rename_i _ g hg
      split at hg
      · cases hg
      · split at hg
        · rename_i hrw
          split at hg
          · rename_i e he
            exact ⟨hrw, (State.readByte_error.1 he).1⟩
          · cases hg
        · split at hg <;> cases hg
    · cases h
  · cases h
  · cases h
  · split at h <;> cases h

theorem State.nextOp_error {s : State} {f : Fault} (h : s.nextOp = .error f) :
    s.r < s.w ∧ s.params.cap ≤ s.r := by
  unfold State.nextOp at h
  split at h
  · split at h
    · exact State.loopNext_error h
    · cases h
  · split at h
    · exact State.loopNext_error h
    · cases h

/-- Every operation that the drive loop issues answers a next state: L1 and L3 of R141 test what
DELIVER and SURFACE need, and the indices bound what the byte operations read. -/
theorem State.exec_loopNext_answers {s s' : State} {i : Instr} (hi : s.IndexInv)
    (h : s.loopNext = .ok (some (i, s'))) : ∃ t, exec i s' = .next t := by
  rcases State.loopNext_cases h with ⟨_, rfl, htop⟩ | ⟨_, rfl, rfl⟩ | ⟨_, rfl, rfl⟩ |
    ⟨_, x, rest, _, rfl, rfl⟩
  · rcases htop with ⟨hq, rfl⟩ | ⟨_, _, b, _, rfl⟩ | ⟨_, _, he, rfl⟩ | ⟨_, _, _, rfl⟩
    · exact execDeliver_answers hq
    · exact exec_decodeByte_answers s'.phase b hi
    · exact execSurface_answers he
    · exact ⟨_, rfl⟩
  · exact execCapchk_answers s'
  · exact execFill_answers s'
  · exact ⟨_, exec_decodeResponse { s with srcq := rest } x hi.2⟩

/-- Of the invariants, `R <= W <= CAP` alone (R26) keeps a step from stopping. -/
theorem step_answers {s : State} (hi : s.IndexInv) : ∃ t, step s = .next t := by
  cases hn : s.nextOp with
  | error f =>
    obtain ⟨hrw, hc⟩ := State.nextOp_error hn
    obtain ⟨_, hwc⟩ := hi
    omega
  | ok next =>
    cases next with
    | none => exact ⟨s, by simp [step, hn]⟩
    | some op =>
      obtain ⟨i, s'⟩ := op
      rw [step_of_nextOp hn]
      rcases State.nextOp_cases hn with ⟨ev, rest, _, _, rfl, rfl⟩ | ⟨_, hl⟩
      · exact exec_decodeCommand_answers ev.cmd _
      · exact State.exec_loopNext_answers hi hl

/-- Settles O47: a step can stop only at a byte that RBUF does not have, an empty queue or an empty
slot, and none of them is met where `R <= W <= CAP`. -/
theorem stepNeverStops : Obligations.StepNeverStops := fun _ h => step_answers h.index

end Sys2Proof.Machine
end

section
/-! PROOFS. The parameters and the four registers whose width a parameter gives (O49, O50). -/

namespace Sys2Proof.Machine

/-! ### The width of a number -/

/-- The search for a width stops at the first one that suffices. -/
theorem widthFrom_le {n k : Nat} (fuel j : Nat) (hn : n < 2 ^ k) (hj : j ≤ k) :
    widthFrom fuel j n ≤ k := by
  induction fuel generalizing j with
  | zero => exact hj
  | succ fuel ih =>
    simp only [widthFrom]
    split
    · exact hj
    · rename_i hnot
      have hne : j ≠ k := fun h => hnot (h ▸ hn)
      exact ih (j + 1) (by omega)

/-- `ceil(log2(n+1))` is the smallest width that holds `n`. -/
theorem lt_two_pow_iff_widthOf_le (n k : Nat) : n < 2 ^ k ↔ widthOf n ≤ k :=
  ⟨fun h => widthFrom_le n 0 h (Nat.zero_le k),
    fun h => (lt_two_pow_widthOf n).trans_le (Nat.pow_le_pow_right (by decide) h)⟩

/-! ### What an operation may write to the parameters and to those registers -/

/-- From `s` to `t` the parameters stay, and each of R, W, EMPTIES and ERRE is kept or holds a number of
its own width (R7, R20, R26, R29). -/
structure State.KeepsWidths (s t : State) : Prop where
  params : t.params = s.params
  r : t.r = s.r ∨ t.r < 2 ^ s.params.idxw
  w : t.w = s.w ∨ t.w < 2 ^ s.params.idxw
  empties : t.empties = s.empties ∨ t.empties < 2 ^ s.params.emptiesw
  erre : t.erre = s.erre ∨ t.erre < 2 ^ s.params.ew

/-- A state that differs elsewhere only. -/
theorem State.KeepsWidths.of_eq {s t : State} (hp : t.params = s.params) (hr : t.r = s.r)
    (hw : t.w = s.w) (he : t.empties = s.empties) (hc : t.erre = s.erre) : s.KeepsWidths t :=
  ⟨hp, .inl hr, .inl hw, .inl he, .inl hc⟩

/-- A state that differs elsewhere and in R, which an index was written to. -/
theorem State.KeepsWidths.of_index {s t : State} (v : Nat) (hp : t.params = s.params)
    (hr : t.r = s.index v) (hw : t.w = s.w) (he : t.empties = s.empties) (hc : t.erre = s.erre) :
    s.KeepsWidths t :=
  ⟨hp, .inr (hr ▸ s.index_lt v), .inl hw, .inl he, .inl hc⟩

/-- Kept or in range, twice over. -/
theorem eq_or_lt_trans {a b c m : Nat} (h : b = a ∨ b < m) (h' : c = b ∨ c < m) :
    c = a ∨ c < m := by
  omega

theorem State.KeepsWidths.trans {s t u : State} (h : s.KeepsWidths t) (h' : t.KeepsWidths u) :
    s.KeepsWidths u := by
  obtain ⟨hp, hr, hw, he, hc⟩ := h'
  rw [h.params] at hp hr hw he hc
  exact ⟨hp, eq_or_lt_trans h.r hr, eq_or_lt_trans h.w hw, eq_or_lt_trans h.empties he,
    eq_or_lt_trans h.erre hc⟩

/-! ### The shared updates -/

theorem State.keepsWidths_vbC (s : State) (g : Group) : s.KeepsWidths (s.vbC g) := by
  rcases s.vbC_cases g with ⟨_, e⟩ | ⟨_, e⟩ <;> rw [e] <;> exact .of_index _ rfl rfl rfl rfl rfl

theorem State.keepsWidths_emitIfComplete (s : State) : s.KeepsWidths s.emitIfComplete := by
  rcases s.emitIfComplete_cases with ⟨_, e⟩ | ⟨_, e⟩ <;> rw [e] <;> exact .of_eq rfl rfl rfl rfl rfl

theorem State.keepsWidths_compacted (s : State) : s.KeepsWidths s.compacted :=
  ⟨rfl, .inr (Nat.two_pow_pos _), .inr (s.index_lt _), .inl rfl, .inl rfl⟩

theorem State.keepsWidths_rebased (s : State) : s.KeepsWidths s.rebased := by
  unfold State.rebased
  split
  · exact s.keepsWidths_compacted
  · exact .of_eq rfl rfl rfl rfl rfl

theorem State.keepsWidths_receive (s : State) (data : List Byte) :
    s.KeepsWidths (s.receive data) :=
  ⟨rfl, .inl rfl, .inr (s.index_lt _), .inl rfl, .inl rfl⟩

theorem State.keepsWidths_cleared (s : State) : s.KeepsWidths s.cleared :=
  ⟨rfl, .inr (Nat.two_pow_pos _), .inr (Nat.two_pow_pos _), .inr (Nat.two_pow_pos _),
    .inr (Nat.two_pow_pos _)⟩

/-- One turn of the read loop writes W, ERRE or EMPTIES, whichever answer it takes (R170). -/
theorem State.keepsWidths_answered (s : State) (x : SrcResp) : s.KeepsWidths (s.answered x) := by
  have hcount : s.emptyCount (s.empties + 1) < 2 ^ s.params.emptiesw := s.emptyCount_lt _
  have hcode : s.errCode x.e < 2 ^ s.params.ew := Nat.mod_lt _ (Nat.two_pow_pos _)
  rcases s.answered_cases x with ⟨_, e⟩ | ⟨_, ⟨_, e⟩ | ⟨_, e⟩ | ⟨_, _, e⟩ | ⟨_, _, _, e⟩ |
    ⟨_, _, _, e⟩⟩ <;> rw [e]
  · exact .of_eq rfl rfl rfl rfl rfl
  · exact (s.keepsWidths_receive x.data).trans (.of_eq rfl rfl rfl rfl rfl)
  · exact (s.keepsWidths_receive x.data).trans ⟨rfl, .inl rfl, .inl rfl, .inl rfl, .inr hcode⟩
  · exact (s.keepsWidths_receive x.data).trans (.of_eq rfl rfl rfl rfl rfl)
  · exact ⟨rfl, .inl rfl, .inl rfl, .inr hcount, .inl rfl⟩
  · exact ⟨rfl, .inl rfl, .inl rfl, .inr hcount, .inl rfl⟩

/-! ### The operations with several ways out -/

section
variable {s t : State}

theorem execHdrT_keepsWidths {g : Group} (h : execHdrT g s = .next t) : s.KeepsWidths t := by
  rcases execHdrT_ways g s with e | ⟨len, e | e⟩ <;> cases e.symm.trans h
  · exact .of_index _ rfl rfl rfl rfl rfl
  · exact .of_index _ rfl rfl rfl rfl rfl
  · refine State.KeepsWidths.trans ?_ (State.keepsWidths_emitIfComplete _)
    exact .of_index _ rfl rfl rfl rfl rfl

theorem execPayB_keepsWidths {d : Byte} (h : execPayB d s = .next t) : s.KeepsWidths t := by
  rcases execPayB_cases d s with ⟨_, _, e⟩ | ⟨_, _, _, _, _, ⟨_, e⟩ | ⟨_, e⟩⟩ <;>
    cases e.symm.trans h <;> exact .of_index _ rfl rfl rfl rfl rfl

theorem execDeliver_keepsWidths (h : execDeliver s = .next t) : s.KeepsWidths t := by
  unfold execDeliver at h
  split at h
  · cases h
  · cases h
    exact .trans (.of_eq rfl rfl rfl rfl rfl)
      ((State.keepsWidths_compacted _).trans (.of_eq rfl rfl rfl rfl rfl))

theorem execSurface_keepsWidths (h : execSurface s = .next t) : s.KeepsWidths t := by
  unfold execSurface at h
  split at h
  · cases h
  · cases h
    exact .of_eq rfl rfl rfl rfl rfl

theorem execCapchk_keepsWidths (h : execCapchk s = .next t) : s.KeepsWidths t := by
  rcases execCapchk_cases s with ⟨_, _, _, e⟩ | ⟨_, _, e⟩ <;> cases e.symm.trans h <;>
    exact .of_eq rfl rfl rfl rfl rfl

theorem execFill_keepsWidths (h : execFill s = .next t) : s.KeepsWidths t := by
  have hzero : 0 < 2 ^ s.rebased.params.emptiesw := Nat.two_pow_pos _
  refine s.keepsWidths_rebased.trans ?_
  rcases execFill_cases s with ⟨_, e⟩ | ⟨_, _, e⟩ | ⟨_, _, e⟩ <;> cases e.symm.trans h
  · exact .of_eq rfl rfl rfl rfl rfl
  · exact ⟨rfl, .inl rfl, .inl rfl, .inr hzero, .inl rfl⟩
  · exact ⟨rfl, .inl rfl, .inl rfl, .inr hzero, .inl rfl⟩

theorem execReadNext_keepsWidths (h : execReadNext s = .next t) : s.KeepsWidths t := by
  rcases execReadNext_cases s with e | e | e <;> cases e.symm.trans h <;>
    exact .of_eq rfl rfl rfl rfl rfl

theorem execReset_keepsWidths (h : execReset s = .next t) : s.KeepsWidths t := by
  rcases execReset_cases s with e | e <;> cases e.symm.trans h
  · exact s.keepsWidths_cleared
  · exact .of_eq rfl rfl rfl rfl rfl

/-- No operation changes a parameter, and each writes a register of parametric width within it. -/
theorem exec_keepsWidths {i : Instr} (h : exec i s = .next t) : s.KeepsWidths t := by
  cases i with
  | lenC g => exact Host.Outcome.next.inj h ▸ s.keepsWidths_vbC g
  | lenT g => cases h; exact .of_index _ rfl rfl rfl rfl rfl
  | hdrC g => exact Host.Outcome.next.inj h ▸ s.keepsWidths_vbC g
  | hdrT g => exact execHdrT_keepsWidths h
  | payB d => exact execPayB_keepsWidths h
  | vreset => cases h; exact .of_eq rfl rfl rfl rfl rfl
  | emit => cases h; exact .of_eq rfl rfl rfl rfl rfl
  | deliver => exact execDeliver_keepsWidths h
  | compact => cases h; exact s.keepsWidths_compacted
  | surface => exact execSurface_keepsWidths h
  | stallchk => cases h; exact .of_eq rfl rfl rfl rfl rfl
  | capchk => exact execCapchk_keepsWidths h
  | fill => exact execFill_keepsWidths h
  | readNext => exact execReadNext_keepsWidths h
  | reset => exact execReset_keepsWidths h
  | srcData data => cases h; exact s.keepsWidths_answered _
  | srcEmpty => cases h; exact s.keepsWidths_answered _
  | srcEof data => cases h; exact s.keepsWidths_answered _
  | srcErr data e => cases h; exact s.keepsWidths_answered _
  | srcBad x => cases h; exact .of_eq rfl rfl rfl rfl rfl

end

/-- Settles O49: every operation that answers keeps the parameters, RESET among them. -/
theorem noOperationChangesAParameter : Obligations.NoOperationChangesAParameter :=
  fun _ _ _ h => (exec_keepsWidths h).params

/-- Settles O50: the widths are the smallest by their search, and what an operation writes to one of the
four registers has been cut to its width. -/
theorem registersKeepTheirParameterWidths : Obligations.RegistersKeepTheirParameterWidths := by
  refine ⟨fun p k => ⟨lt_two_pow_iff_widthOf_le p.cap k,
    lt_two_pow_iff_widthOf_le p.maxEmptyReads k⟩, fun i s t h => ?_⟩
  obtain ⟨hp, hr, hw, he, hc⟩ := exec_keepsWidths h
  rw [hp]
  exact ⟨fun hr0 hw0 => ⟨hr.elim (·.trans_lt hr0) id, hw.elim (·.trans_lt hw0) id⟩,
    fun he0 => he.elim (·.trans_lt he0) id, fun hc0 => hc.elim (·.trans_lt hc0) id⟩

end Sys2Proof.Machine
end

section
/-! PROOFS. The reset state meets the invariants, and every step keeps them (O45, O46). -/

namespace Sys2Proof.Machine

/-! ### The invariants that no status suspends -/

/-- The part of the invariants that binds whether or not the block is DEAD, wherever it stands in
its loop: the parameters, RBUF and its indices, the slot, the count of empty reads. -/
structure State.StoreInv (s : State) : Prop where
  params : s.params.Legal
  index : s.IndexInv
  buffer : s.BufferInv
  slot : s.SlotInv
  empties : s.empties ≤ s.params.maxEmptyReads

section
variable {s t : State}

theorem State.Inv.store (h : s.Inv) : s.StoreInv :=
  ⟨h.params, h.index, h.buffer, h.slot, h.empties⟩

/-- What the host and the source have yet to say is no part of the invariants (log 2). -/
theorem State.Inv.of_ports (h : s.Inv) (hosts : List HostEvent) (answers : List SrcResp) :
    { s with hostq := hosts, srcq := answers }.Inv :=
  ⟨h.params, h.index, h.buffer, h.acc, h.frame, h.slot, h.queue, h.loop, h.empties⟩

/-- A message is queued in a running READ_NEXT only (R34). -/
theorem State.Inv.msgq_nil (h : s.Inv) (hs : s.status ≠ .busy) : s.msgq = [] :=
  by_contra fun hq => hs (h.queue.2 hq).1

theorem State.Inv.live (h : s.Inv) (hb : s.status = .busy) : s.dead = false :=
  h.loop.2.1 hb

theorem State.queueInv_of_nil (h : s.msgq = []) : s.QueueInv :=
  ⟨by simp [h], fun hq => absurd h hq⟩

theorem State.accInv_of_idle (hv : t.val = 0) (hf : t.fac = 1) (hc : t.cnt = 0) : t.AccInv := by
  refine ⟨?_, ?_, fun _ => ?_⟩ <;> simp [hv, hf, hc]

/-- A command has ended, in IDLE or in FAULT. -/
theorem State.StoreInv.inv_of_stopped (h : t.StoreInv) (hs : t.status ≠ .busy) (hl : t.loc = .top)
    (hq : t.msgq = []) (hacc : t.dead = false → t.AccInv) (hframe : t.dead = false → t.FrameInv) :
    t.Inv where
  params := h.params
  index := h.index
  buffer := h.buffer
  acc := hacc
  frame := hframe
  slot := h.slot
  queue := State.queueInv_of_nil hq
  loop := ⟨fun _ => hl, fun hb => absurd hb hs, by rw [hl]; trivial⟩
  empties := h.empties

/-- A READ_NEXT runs on at the top of its loop. -/
theorem State.StoreInv.inv_of_running (h : t.StoreInv) (hd : t.dead = false) (hl : t.loc = .top)
    (hacc : t.AccInv) (hframe : t.FrameInv) (hq : t.QueueInv) : t.Inv where
  params := h.params
  index := h.index
  buffer := h.buffer
  acc := fun _ => hacc
  frame := fun _ => hframe
  slot := h.slot
  queue := hq
  loop := ⟨fun _ => hl, fun _ => hd, by rw [hl]; trivial⟩
  empties := h.empties

/-- `raise` leaves the block DEAD, and its parser registers without meaning (R215). -/
theorem State.StoreInv.raise (h : s.StoreInv) (hq : s.msgq = []) {k : ErrKind}
    {e : Option ErrCode} : (s.raise k e).Inv :=
  State.StoreInv.inv_of_stopped { h with }
    (by simp) rfl hq (by simp) (by simp)

theorem State.StoreInv.respond (h : s.StoreInv) (hq : s.msgq = [])
    (hacc : s.dead = false → s.AccInv) (hframe : s.dead = false → s.FrameInv)
    {x : Response} : (s.respond x).Inv :=
  State.StoreInv.inv_of_stopped { h with }
    (by simp) rfl hq hacc hframe

theorem State.StoreInv.panic (h : s.StoreInv) (hq : s.msgq = [])
    (hacc : s.dead = false → s.AccInv) (hframe : s.dead = false → s.FrameInv)
    {c : PanicCause} : (s.panic c).Inv :=
  State.StoreInv.inv_of_stopped { h with }
    (by simp) rfl hq hacc hframe

/-- COMPACT moves the unread bytes to where they are unread again, below `CAP` (R144). -/
theorem State.StoreInv.compacted (h : s.StoreInv) : s.compacted.StoreInv := by
  obtain ⟨hp, ⟨hrw, hwc⟩, ⟨hwf, hcap, _⟩, hslot, he⟩ := h
  have hw : s.compacted.w = s.w - s.r := State.index_of_le (by omega)
  refine ⟨hp, ⟨Nat.zero_le _, ?_⟩,
    ⟨Memory.moveDown_wf _ _ _ _ hwf, fun i hi => ?_, fun i _ hi => ?_⟩, hslot, he⟩
  · rw [hw, State.compacted_params]
    omega
  · have hi : s.params.cap ≤ i := hi
    have hout : ¬ i < s.w - s.r := by omega
    rw [← Option.not_isSome_iff_eq_none, State.compacted_rbuf, Memory.isSome_read_moveDown]
    simp [hout, hcap i hi]
  · rw [hw] at hi
    rw [State.compacted_rbuf, Memory.isSome_read_moveDown]
    simp [hi]

theorem State.StoreInv.rebased (h : s.StoreInv) : s.rebased.StoreInv := by
  unfold State.rebased
  split
  · exact h.compacted
  · exact h

/-- A response's bytes that fit are written, unread and below `CAP` (R173). -/
theorem State.StoreInv.receive (h : s.StoreInv) {data : List Byte}
    (hfit : s.w + data.length ≤ s.params.cap) : (s.receive data).StoreInv := by
  obtain ⟨hp, ⟨hrw, hwc⟩, ⟨hwf, hcap, hunread⟩, hslot, he⟩ := h
  rw [State.receive_eq hfit]
  refine ⟨hp, ⟨hrw.trans (Nat.le_add_right _ _), hfit⟩,
    ⟨Memory.write_wf _ _ hwf, fun i hi => ?_, fun i hr hi => ?_⟩, hslot, he⟩
  · have hi : s.params.cap ≤ i := hi
    simp only [Memory.read_write]
    rw [if_neg (by omega)]
    exact hcap i hi
  · have hi : i < s.w + data.length := hi
    simp only [Memory.read_write]
    split
    · rw [List.getElem?_eq_getElem (by omega)]
      rfl
    · exact hunread i hr (by omega)

end

/-! ### Reset (O45) -/

/-- Every register at its reset value meets the invariants, whatever the legal parameters (R40). -/
theorem State.inv_of_reset_registers {p : Params} (hp : p.Legal) (n : Nat) (hosts : List HostEvent)
    (answers : List SrcResp) (given : List Response) :
    { State.reset with
      params := p, resets := n, hostq := hosts, srcq := answers, resps := given }.Inv :=
  State.StoreInv.inv_of_stopped
    { params := hp
      index := ⟨Nat.le_refl 0, Nat.zero_le _⟩
      buffer := ⟨rfl, fun _ _ => rfl, fun _ _ hi => absurd hi (Nat.not_lt_zero _)⟩
      slot := ⟨.inl rfl, Nat.two_pow_pos _⟩
      empties := Nat.zero_le _ }
    nofun rfl rfl (fun _ => State.accInv_of_idle rfl rfl rfl)
    (fun _ => ⟨rfl, rfl, rfl, rfl⟩)

/-- Settles O45: the parameters that reset starts from are legal. -/
theorem resetStateMeetsTheInvariants : Obligations.ResetStateMeetsTheInvariants :=
  State.inv_of_reset_registers (p := Config.defaults) (by decide) 0 [] [] []

/-! ### The accumulator -/

section
variable {s t : State}

/-- VB.C adds a digit of base 128 and weighs the next (R102, R108). -/
theorem State.AccInv.accumulate (h : s.AccInv) (h10 : s.cnt ≠ 10) (g : Group)
    (hv : t.val = s.val + contribution g s.fac) (hf : t.fac = s.fac * 128)
    (hc : t.cnt = s.cnt + 1) : t.AccInv := by
  obtain ⟨hcnt, hfac, hval⟩ := h
  have h10 : s.cnt.toNat ≠ 10 := fun h => h10 (BitVec.eq_of_toNat_eq h)
  have hcnt' : t.cnt.toNat = s.cnt.toNat + 1 := by rw [hc, cnt_succ_toNat (by omega)]
  refine ⟨by omega, ?_, fun h9 => ?_⟩
  · rw [hf, hcnt', BitVec.toNat_mul, hfac, pow_succ]
    exact Nat.mod_mul_mod _ _ _
  · have hpow : s.fac.toNat ≤ 2 ^ (7 * s.cnt.toNat) := by
      rw [hfac, pow_mul]
      exact Nat.mod_le _ _
    have hdigit : g.toNat * s.fac.toNat ≤ 127 * 2 ^ (7 * s.cnt.toNat) :=
      Nat.mul_le_mul (by have := g.isLt; omega) hpow
    have hsum := hval (by omega)
    have hnext : 2 ^ (7 * (s.cnt.toNat + 1)) = 128 * 2 ^ (7 * s.cnt.toNat) := by ring
    rw [hv, accumulate_toNat, hcnt', hnext]
    exact (Nat.mod_le _ _).trans_lt (by omega)

end

/-! ### The registers of a frame, phase by phase (R39) -/

section
variable {s : State}

theorem State.frameInv_awaitLen (h : s.phase = .awaitLen) :
    s.FrameInv ↔ s.blen = 0 ∧ s.hdr = 0 ∧ s.pmiss = 0 ∧ s.pay = [] := by
  rw [State.FrameInv, h]

theorem State.frameInv_awaitHeader (h : s.phase = .awaitHeader) :
    s.FrameInv ↔ s.blen ≠ 0 ∧ s.hdr = 0 ∧ s.pmiss = 0 ∧ s.pay = [] := by
  rw [State.FrameInv, h]

theorem State.frameInv_awaitPayload (h : s.phase = .awaitPayload) :
    s.FrameInv ↔ (s.val = 0 ∧ s.fac = 1 ∧ s.cnt = 0) ∧ 1 ≤ s.pmiss.toNat ∧
      s.pay.length + s.pmiss.toNat = s.blen.toNat ∧ s.blen.toNat ≤ s.params.maxMessageSize := by
  rw [State.FrameInv, h]

/-- Within a varint the frame says nothing of the accumulator (R100). -/
theorem State.FrameInv.of_same_registers {t : State} (h : s.FrameInv) (hs : s.phase ≠ .awaitPayload)
    (hphase : t.phase = s.phase) (hblen : t.blen = s.blen) (hhdr : t.hdr = s.hdr)
    (hpmiss : t.pmiss = s.pmiss) (hpay : t.pay = s.pay) : t.FrameInv := by
  cases hp : s.phase with
  | awaitLen =>
    rw [State.frameInv_awaitLen (hphase.trans hp), hblen, hhdr, hpmiss, hpay]
    exact (State.frameInv_awaitLen hp).1 h
  | awaitHeader =>
    rw [State.frameInv_awaitHeader (hphase.trans hp), hblen, hhdr, hpmiss, hpay]
    exact (State.frameInv_awaitHeader hp).1 h
  | awaitPayload => exact absurd hp hs

end

/-! ### The parser (R141 L2) -/

/-- A running READ_NEXT whose next operation is the one of the byte at `R` (R141 L2). -/
structure State.Decoding (s : State) : Prop where
  inv : s.Inv
  busy : s.status = .busy
  top : s.loc = .top
  noMessage : s.msgq = []
  unread : s.r < s.w

/-- From `s` to `t`, R moves over one or more unread bytes, and of the other registers only the
parser's change. -/
structure State.Parses (s t : State) : Prop where
  r_lt : s.r < t.r
  r_le : t.r ≤ s.w
  params : t.params = s.params
  w : t.w = s.w
  rbuf : t.rbuf = s.rbuf
  errk : t.errk = s.errk
  erre : t.erre = s.erre
  empties : t.empties = s.empties
  dead : t.dead = s.dead
  status : t.status = s.status
  loc : t.loc = s.loc
  msgq : t.msgq = s.msgq

section
variable {s t : State}

theorem State.Parses.store (p : s.Parses t) (h : s.StoreInv) : t.StoreInv := by
  obtain ⟨hp, ⟨hrw, hwc⟩, ⟨hwf, hcap, hunread⟩, ⟨hkind, hcode⟩, he⟩ := h
  constructor
  · rwa [p.params]
  · rw [State.IndexInv, p.params, p.w]
    exact ⟨p.r_le, hwc⟩
  · rw [State.BufferInv, p.params, p.w, p.rbuf]
    exact ⟨hwf, hcap, fun i hi => hunread i (p.r_lt.le.trans hi)⟩
  · rw [State.SlotInv, p.params, p.errk, p.erre]
    exact ⟨hkind, hcode⟩
  · rwa [p.params, p.empties]

namespace State.Decoding

theorem live (h : s.Decoding) : s.dead = false := h.inv.live h.busy

theorem acc (h : s.Decoding) : s.AccInv := h.inv.acc h.live

theorem frame (h : s.Decoding) : s.FrameInv := h.inv.frame h.live

/-- R advances by `k` unread bytes, and no bit of it is lost (R26). -/
theorem index_add (h : s.Decoding) {k : Nat} (hk : s.r + k ≤ s.w) : s.index (s.r + k) = s.r + k :=
  State.index_of_le (hk.trans h.inv.index.2)

theorem parses_vbT (h : s.Decoding) (g : Group) : s.Parses (s.vbT g) := by
  have hr : (s.vbT g).r = s.r + 1 := h.index_add h.unread
  exact ⟨by omega, hr.trans_le h.unread, rfl, rfl, rfl, rfl, rfl, rfl, rfl, rfl, rfl, rfl⟩

/-- The operation leaves the parser within a frame, or at a boundary without a message. -/
theorem inv_of_parses (h : s.Decoding) (p : s.Parses t) (hacc : t.AccInv) (hframe : t.FrameInv) :
    t.Inv :=
  (p.store h.inv.store).inv_of_running (p.dead.trans h.live) (p.loc.trans h.top) hacc hframe
    (State.queueInv_of_nil (p.msgq.trans h.noMessage))

/-- The operation ends the command with an error. -/
theorem inv_of_parses_raise (h : s.Decoding) (p : s.Parses t) {k : ErrKind} {e : Option ErrCode} :
    (t.raise k e).Inv :=
  (p.store h.inv.store).raise (p.msgq.trans h.noMessage)

/-- The operation completes a message: it is the only one queued, and R is past its bytes (R34). -/
theorem inv_of_parses_emitted (h : s.Decoding) (p : s.Parses t) : t.emitted.Inv := by
  obtain ⟨hp, hi, hb, hs, he⟩ := p.store h.inv.store
  have hq : t.emitted.msgq = [t.message] := by simp [p.msgq, h.noMessage]
  refine State.StoreInv.inv_of_running ⟨hp, hi, hb, hs, he⟩ (p.dead.trans h.live)
    (p.loc.trans h.top) (State.accInv_of_idle rfl rfl rfl) ⟨rfl, rfl, rfl, rfl⟩ ⟨?_, fun _ => ?_⟩
  · rw [hq]
    exact Nat.le_refl 1
  · exact ⟨p.status.trans h.busy, p.loc.trans h.top, rfl, rfl, Nat.one_le_of_lt p.r_lt⟩

/-- A continuation byte keeps the invariants (R121, R123): only the accumulator changes, which in
these two phases the frame does not speak of. -/
theorem inv_vbC (h : s.Decoding) (hphase : s.phase ≠ .awaitPayload) (g : Group) :
    (s.vbC g).Inv := by
  have p : s.Parses { s.vbT g with fac := s.fac * 128 } := { h.parses_vbT g with }
  rcases s.vbC_cases g with ⟨_, e⟩ | ⟨h10, e⟩ <;> rw [e]
  · exact h.inv_of_parses_raise p
  · exact h.inv_of_parses p (h.acc.accumulate h10 g rfl rfl rfl) 
      (h.frame.of_same_registers hphase rfl rfl rfl rfl rfl)

/-- The terminator of a length varint (R122): a value of 0 is a frame of no bytes. -/
theorem inv_of_execLenT (h : s.Decoding) (hphase : s.phase = .awaitLen) {g : Group}
    (ht : execLenT g s = .next t) : t.Inv := by
  obtain ⟨_, hhdr, hpmiss, hpay⟩ := (State.frameInv_awaitLen hphase).1 h.frame
  cases ht
  refine h.inv_of_parses { h.parses_vbT g with } (State.accInv_of_idle rfl rfl rfl) ?_
  by_cases hv : (s.vbT g).val = 0
  · exact (State.frameInv_awaitLen (if_pos hv)).2 ⟨hv, hhdr, hpmiss, hpay⟩
  · exact (State.frameInv_awaitHeader (if_neg hv)).2 ⟨hv, hhdr, hpmiss, hpay⟩

/-- The terminator of a header varint (R124): an error, an empty message, or a payload to come. -/
theorem inv_of_execHdrT (h : s.Decoding) {g : Group} (ht : execHdrT g s = .next t) : t.Inv := by
  have p := h.parses_vbT g
  have hcnt := h.acc.1
  rcases execHdrT_cases g s (by omega) with
    ⟨_, e⟩ | ⟨_, len, _, ⟨_, e⟩ | ⟨_, _, e⟩ | ⟨hmax, hlen, e⟩⟩ <;> cases e.symm.trans ht
  · exact h.inv_of_parses_raise (t := { s.vbT g with hdr := (s.vbT g).val }) { p with }
  · exact h.inv_of_parses_raise (t := { s.vbT g with hdr := (s.vbT g).val, blen := len }) { p with }
  · exact h.inv_of_parses_emitted { p with }
  · have hpos : 1 ≤ len.toNat := Nat.one_le_iff_ne_zero.2 (mt (word_eq_zero_iff len).2 hlen)
    exact h.inv_of_parses { p with } (State.accInv_of_idle rfl rfl rfl)
      ((State.frameInv_awaitPayload rfl).2 ⟨⟨rfl, rfl, rfl⟩, hpos, Nat.zero_add _, hmax⟩)

/-- A burst of payload bytes (R125): at least one is copied, and the last one ends the message. -/
theorem inv_of_execPayB (h : s.Decoding) (hphase : s.phase = .awaitPayload) {d : Byte}
    (ht : execPayB d s = .next t) : t.Inv := by
  obtain ⟨⟨hval, hfac, hcnt⟩, hpos, hlen, hmax⟩ := (State.frameInv_awaitPayload hphase).1 h.frame
  have hunread := h.unread
  have hk : 1 ≤ s.burstLen := by unfold State.burstLen; omega
  have hkw : s.r + s.burstLen ≤ s.w := by have := s.burstLen_le.2; omega
  have hr := h.index_add hkw
  rcases execPayB_cases d s with ⟨_, _, e⟩ | ⟨bs, left, _, hbs, hleft, hway⟩
  · cases e.symm.trans ht
  · have p : s.Parses { s with
        pay := s.pay ++ bs, r := s.index (s.r + s.burstLen), pmiss := left } :=
      ⟨by simp only [hr]; omega, hr.trans_le hkw, rfl, rfl, rfl, rfl, rfl, rfl, rfl, rfl, rfl, rfl⟩
    rcases hway with ⟨_, e⟩ | ⟨hshort, e⟩ <;> cases e.symm.trans ht
    · exact h.inv_of_parses_emitted p
    · refine h.inv_of_parses p (State.accInv_of_idle hval hfac hcnt)
        ((State.frameInv_awaitPayload ?_).2 ⟨⟨hval, hfac, hcnt⟩, ?_, ?_, hmax⟩)
      · exact hphase
      · simp only
        omega
      · simp only [List.length_append]
        omega

/-- Whichever operation PHASE and bit 7 select (R76), it keeps the invariants. -/
theorem inv_of_exec_decodeByte (h : s.Decoding) {b : Byte}
    (ht : exec (decodeByte s.phase b) s = .next t) : t.Inv := by
  rcases decodeByte_cases s.phase b with ⟨hp, g, e | e⟩ | ⟨hp, g, e | e⟩ | ⟨hp, e⟩ <;> rw [e] at ht
  · cases ht
    exact h.inv_vbC (by simp [hp]) g
  · exact h.inv_of_execLenT hp ht
  · cases ht
    exact h.inv_vbC (by simp [hp]) g
  · exact h.inv_of_execHdrT ht
  · exact h.inv_of_execPayB hp ht

end State.Decoding

/-! ### The micro-operations of the drive loop -/

/-- DELIVER takes the one queued message; the rest of the frame is as before (R143). -/
theorem State.Inv.of_execDeliver (h : s.Inv) (ht : execDeliver s = .next t) : t.Inv := by
  have hone := h.queue.1
  unfold execDeliver at ht
  split at ht
  · cases ht
  · rename_i m rest hq
    have hrest : rest = [] := by simpa [hq, Config.qdepth] using hone
    have hstore : { s with msgq := rest }.StoreInv := { h.store with }
    cases ht
    exact hstore.compacted.respond hrest h.acc h.frame

/-- SURFACE empties the slot and raises (R146). -/
theorem State.Inv.of_execSurface (h : s.Inv) (hq : s.msgq = []) (ht : execSurface s = .next t) :
    t.Inv := by
  unfold execSurface at ht
  split at ht
  · cases ht
  · rename_i k hk
    have hstore : { s with errk := none }.StoreInv :=
      ⟨h.params, h.index, h.buffer, ⟨.inl rfl, h.slot.2⟩, h.empties⟩
    cases ht
    exact hstore.raise hq

/-- L4 of R141 is reached with everything decoded, delivered and reported. -/
theorem State.Inv.of_execStallchk (h : s.Inv) (hb : s.status = .busy) (hq : s.msgq = [])
    (hrw : s.w ≤ s.r) (hk : s.errk = none) (ht : execStallchk s = .next t) : t.Inv := by
  cases ht
  exact
    { h with
      queue := State.queueInv_of_nil hq
      loop := ⟨fun hs => absurd hb hs, h.loop.2.1, Nat.le_antisymm h.index.1 hrw, hk, hq⟩ }

/-- CAPCHK raises, or the payload fits (R148, R149). -/
theorem State.Inv.of_execCapchk (h : s.Inv) (hb : s.status = .busy) (hl : s.loc = .capchk)
    (ht : execCapchk s = .next t) : t.Inv := by
  obtain ⟨_, hlive, hplace⟩ := h.loop
  rw [hl] at hplace
  obtain ⟨hrw, hk, hq⟩ := hplace
  rcases execCapchk_cases s with ⟨_, _, _, e⟩ | ⟨_, hfits, e⟩ <;> cases e.symm.trans ht
  · exact h.store.raise hq
  · exact
      { h with
        queue := State.queueInv_of_nil hq
        loop := ⟨fun hs => absurd hb hs, hlive, hrw, hk, hq, hfits⟩ }

/-- FILL re-bases an empty buffer, so there is room, and the source may be asked (R170, R180). -/
theorem State.Inv.of_execFill (h : s.Inv) (hb : s.status = .busy) (hl : s.loc = .fill)
    (ht : execFill s = .next t) : t.Inv := by
  obtain ⟨_, hlive, hplace⟩ := h.loop
  rw [hl] at hplace
  obtain ⟨hrw, hk, hq, _⟩ := hplace
  obtain ⟨hcap, hreads, _⟩ := h.params
  have hw : s.rebased.w = 0 := by
    rw [State.rebased_w (h.index.2.trans_lt (cap_lt_two_pow_idxw s.params)), hrw, Nat.sub_self]
  have hstore := h.store.rebased
  rw [State.rebased_eq] at hstore
  rcases execFill_cases s with ⟨hfull, _⟩ | ⟨_, hread, e⟩ | ⟨_, hnone, _⟩
  · omega
  · rw [State.rebased_eq] at e
    cases e.symm.trans ht
    exact
      { hstore with
        acc := h.acc
        frame := h.frame
        empties := Nat.zero_le _
        queue := State.queueInv_of_nil hq
        loop := ⟨fun hs => absurd hb hs, hlive, rfl, hw, hk, hq, hread⟩ }
  · omega

/-- One turn of the read loop: a panic, a return to the loop's top, or another SrcRead (R170). -/
theorem State.Inv.of_answered (h : s.Inv) (hb : s.status = .busy) (hl : s.loc = .srcWait)
    (x : SrcResp) : (s.answered x).Inv := by
  obtain ⟨_, hlive, hplace⟩ := h.loop
  rw [hl] at hplace
  obtain ⟨hr, hw, hk, hq, hleft⟩ := hplace
  have hd := hlive hb
  have hcount : s.emptyCount (s.empties + 1) = s.empties + 1 := State.emptyCount_of_le hleft
  have hcode : s.errCode x.e < 2 ^ s.params.ew := Nat.mod_lt _ (Nat.two_pow_pos _)
  rcases s.answered_cases x with ⟨_, e⟩ | ⟨hfit, hway⟩
  · rw [e]
    exact h.store.panic hq h.acc h.frame
  · have hstore := h.store.receive hfit
    rcases hway with ⟨_, e⟩ | ⟨_, e⟩ | ⟨_, _, e⟩ | ⟨_, _, hmore, e⟩ | ⟨_, _, _, e⟩ <;> rw [e]
    · exact State.StoreInv.inv_of_running { hstore with slot := ⟨.inr (.inl rfl), h.slot.2⟩ } hd rfl
        (h.acc hd) (h.frame hd) (State.queueInv_of_nil hq)
    · exact State.StoreInv.inv_of_running { hstore with slot := ⟨.inr (.inr (.inr rfl)), hcode⟩ } hd
        rfl (h.acc hd) (h.frame hd) (State.queueInv_of_nil hq)
    · exact State.StoreInv.inv_of_running { hstore with } hd rfl (h.acc hd) (h.frame hd)
        (State.queueInv_of_nil hq)
    · exact
        { h with
          empties := hmore.le
          queue := State.queueInv_of_nil hq
          loop := ⟨fun hs => absurd hb hs, hlive, hr, hw, hk, hq, hmore⟩ }
    · exact State.StoreInv.inv_of_running
        { h.store with
          slot := ⟨.inr (.inr (.inl rfl)), h.slot.2⟩
          empties := hcount.trans_le hleft }
        hd rfl (h.acc hd) (h.frame hd) (State.queueInv_of_nil hq)

/-! ### The host's commands -/

/-- READ_NEXT answers for a DEAD block, starts the loop of a live one, or is refused (R140,
R142). -/
theorem State.Inv.of_execReadNext (h : s.Inv) (ht : execReadNext s = .next t) : t.Inv := by
  unfold execReadNext at ht
  split at ht
  · rename_i hs
    have hq := h.msgq_nil (by simp [hs])
    split at ht
    · cases ht
      exact h.store.respond hq h.acc h.frame
    · rename_i hd
      have hd : s.dead = false := by simpa using hd
      cases ht
      exact State.StoreInv.inv_of_running { h.store with } hd rfl (h.acc hd) (h.frame hd)
        (State.queueInv_of_nil hq)
  · cases ht
    exact h
  · cases ht
    exact h

theorem State.Inv.of_execReset (h : s.Inv) (ht : execReset s = .next t) : t.Inv := by
  rcases execReset_cases s with e | e <;> cases e.symm.trans ht
  · exact State.inv_of_reset_registers h.params _ _ _ _
  · exact h

theorem State.Inv.of_exec_decodeCommand (h : s.Inv) {c : BitVec 1}
    (ht : exec (decodeCommand c) s = .next t) : t.Inv := by
  unfold decodeCommand at ht
  split at ht
  · exact h.of_execReadNext ht
  · exact h.of_execReset ht

/-! ### The step (O46) -/

/-- Whatever the drive loop issues, at whichever place of R141, it keeps the invariants. -/
theorem State.Inv.of_exec_loopNext {s' : State} {i : Instr} (h : s.Inv) (hb : s.status = .busy)
    (hl : s.loopNext = .ok (some (i, s'))) (ht : exec i s' = .next t) : t.Inv := by
  rcases State.loopNext_cases hl with ⟨htop, rfl, hop⟩ | ⟨hloc, rfl, rfl⟩ | ⟨hloc, rfl, rfl⟩ |
    ⟨hloc, x, rest, _, rfl, rfl⟩
  · rcases hop with ⟨_, rfl⟩ | ⟨hq, hrw, b, _, rfl⟩ | ⟨hq, _, _, rfl⟩ | ⟨hq, hwr, hk, rfl⟩
    · exact h.of_execDeliver ht
    · exact State.Decoding.inv_of_exec_decodeByte ⟨h, hb, htop, hq, hrw⟩ ht
    · exact h.of_execSurface hq ht
    · exact h.of_execStallchk hb hq hwr hk ht
  · exact h.of_execCapchk hb hloc ht
  · exact h.of_execFill hb hloc ht
  · have e := exec_decodeResponse { s with srcq := rest } x h.index.2
    cases e.symm.trans ht
    exact (h.of_ports s.hostq rest).of_answered hb hloc x

theorem State.Inv.of_step (h : s.Inv) (ht : step s = .next t) : t.Inv := by
  rcases step_cases ht with ⟨_, rfl⟩ | ⟨i, s', hn, he⟩
  · exact h
  · rcases State.nextOp_cases hn with ⟨ev, rest, _, _, rfl, rfl⟩ | ⟨hb, hl⟩
    · exact (h.of_ports rest s.srcq).of_exec_decodeCommand he
    · exact h.of_exec_loopNext hb hl he

end

/-- Settles O46: an operation meets what it needs at the place of the loop where it is issued, and
so keeps the invariants; a host's command does so in every status. -/
theorem stepKeepsTheInvariants : Obligations.StepKeepsTheInvariants := fun _ _ h => h.of_step

end Sys2Proof.Machine
end

section
/-! PROOFS. A burst and the fetch stop exactly at a byte that RBUF does not have (O32). -/

namespace Sys2Proof.Machine

variable {s : State}

/-- MemRead of one byte or more that goes beyond `CAP` stops at the first byte there (R32, R50). -/
theorem State.readBytes_outside {a n : Nat} (hn : 1 ≤ n) (h : s.params.cap < a + n) :
    s.readBytes a n = .error .outsideBuffer := by
  cases hr : s.readBytes a n with
  | error f => rw [(State.readBytes_error hr).2]
  | ok bs =>
    obtain ⟨hlen, hinside⟩ := State.readBytes_spec hr
    have hlast := (hinside (n - 1) (by omega)).1
    omega

/-- The first byte of a burst is PAY.B's operand (log 12), so one that stops has two or more. -/
theorem State.two_le_of_burst_error {d : Byte} {f : Fault} (h : s.burst d = .error f) :
    2 ≤ s.burstLen := by
  by_contra hshort
  have hways : s.burstLen = 0 ∨ s.burstLen = 1 := by omega
  rcases hways with hk | hk <;> simp [State.burst, hk, State.readBytes] at h

theorem State.burst_outside {d : Byte} (h2 : 2 ≤ s.burstLen)
    (h : s.params.cap < s.r + s.burstLen) : s.burst d = .error .outsideBuffer := by
  obtain ⟨k, hk⟩ : ∃ k, s.burstLen = k + 1 := ⟨s.burstLen - 1, by omega⟩
  have hr : s.readBytes (s.r + 1) k = .error .outsideBuffer :=
    State.readBytes_outside (by omega) (by omega)
  simp [State.burst, hk, hr]

/-- The fetch of L2 of R141, at an index that RBUF does not have. -/
theorem State.Parsing.step_outside (h : s.Parsing) (hrw : s.r < s.w) (hc : s.params.cap ≤ s.r) :
    step s = .fault .outsideBuffer := by
  obtain ⟨hb, hl, hq, ho⟩ := h
  have hread : s.readByte s.r = .error .outsideBuffer := State.readByte_error.2 ⟨hc, rfl⟩
  have hnext : s.nextOp = .error .outsideBuffer := by
    rw [State.nextOp_loop hb ho]
    simp [State.loopNext, hl, State.loopTop, State.qNonempty, hq, hrw, hread]
  simp [step, hnext]

/-- Settles O32: only a burst of two bytes or more reads RBUF, and it answers unless it goes beyond
`CAP`. -/
theorem onlyBytesThatDoNotExistStop : Obligations.OnlyBytesThatDoNotExistStop := by
  refine fun s d => ⟨fun hexist => ?_, fun h2 h => ?_, State.Parsing.step_outside⟩
  · rcases execPayB_cases d s with ⟨f, hf, _⟩ | ⟨_, _, _, _, _, ⟨_, e⟩ | ⟨_, e⟩⟩
    · have hlong : 2 ≤ s.burstLen := State.two_le_of_burst_error hf
      have hbeyond : s.params.cap < s.r + s.burstLen := State.burst_error hf
      unfold State.burstLen at hlong hbeyond
      omega
    · exact ⟨_, e⟩
    · exact ⟨_, e⟩
  · have hstop : s.burst d = .error .outsideBuffer := State.burst_outside h2 h
    simp [exec, execPayB, hstop]

end Sys2Proof.Machine
end

section
/-! PROOFS. What an operation does to RBUF as a whole, and to the latch DEAD (O48, O53). -/

namespace Sys2Proof.Machine

/-- The moves of RBUF in one operation (R54): none, a compaction, or the bytes of a response. -/
def State.BufferMove (s t : State) : Prop :=
  t.rbuf = s.rbuf ∨ t.rbuf = s.compacted.rbuf ∨ ∃ data, t.rbuf = (s.receive data).rbuf

/-- From `s` to `t`, RBUF makes one of its moves and DEAD is kept or set. -/
structure State.MovesAndLatches (s t : State) : Prop where
  buffer : s.BufferMove t
  dead : t.dead = s.dead ∨ t.dead = true

section
variable {s t : State}

theorem State.BufferMove.wf (h : s.BufferMove t) (hs : Memory.wf s.rbuf = true) :
    Memory.wf t.rbuf = true := by
  rcases h with e | e | ⟨data, e⟩ <;> rw [e]
  · exact hs
  · exact Memory.moveDown_wf _ _ _ _ hs
  · exact Memory.write_wf _ _ hs

/-- A state that differs elsewhere, but for DEAD, which may have been set. -/
theorem State.MovesAndLatches.of_eq (hb : t.rbuf = s.rbuf) (hd : t.dead = s.dead ∨ t.dead = true) :
    s.MovesAndLatches t :=
  ⟨.inl hb, hd⟩

theorem State.movesAndLatches_vbC (s : State) (g : Group) : s.MovesAndLatches (s.vbC g) := by
  rcases s.vbC_cases g with ⟨_, e⟩ | ⟨_, e⟩ <;> rw [e]
  · exact .of_eq rfl (.inr rfl)
  · exact .of_eq rfl (.inl rfl)

@[simp] theorem State.emitIfComplete_rbuf (s : State) : s.emitIfComplete.rbuf = s.rbuf := by
  rcases s.emitIfComplete_cases with ⟨_, e⟩ | ⟨_, e⟩ <;> simp [e]

@[simp] theorem State.emitIfComplete_dead (s : State) : s.emitIfComplete.dead = s.dead := by
  rcases s.emitIfComplete_cases with ⟨_, e⟩ | ⟨_, e⟩ <;> simp [e]

theorem State.movesAndLatches_compacted (s : State) : s.MovesAndLatches s.compacted :=
  ⟨.inr (.inl rfl), .inl rfl⟩

theorem State.movesAndLatches_rebased (s : State) : s.MovesAndLatches s.rebased := by
  unfold State.rebased
  split
  · exact s.movesAndLatches_compacted
  · exact .of_eq rfl (.inl rfl)

/-- One turn of the read loop stores the answer's bytes, or writes nothing to RBUF (R170). -/
theorem State.movesAndLatches_answered (s : State) (x : SrcResp) :
    s.MovesAndLatches (s.answered x) := by
  have hstored : ∃ data, (s.receive x.data).rbuf = (s.receive data).rbuf := ⟨x.data, rfl⟩
  rcases s.answered_cases x with ⟨_, e⟩ | ⟨_, ⟨_, e⟩ | ⟨_, e⟩ | ⟨_, _, e⟩ | ⟨_, _, _, e⟩ |
    ⟨_, _, _, e⟩⟩ <;> rw [e]
  · exact .of_eq rfl (.inl rfl)
  · exact ⟨.inr (.inr hstored), .inl rfl⟩
  · exact ⟨.inr (.inr hstored), .inl rfl⟩
  · exact ⟨.inr (.inr hstored), .inl rfl⟩
  · exact .of_eq rfl (.inl rfl)
  · exact .of_eq rfl (.inl rfl)

/-! ### The operations with several ways out -/

theorem execHdrT_movesAndLatches {g : Group} (h : execHdrT g s = .next t) :
    s.MovesAndLatches t := by
  rcases execHdrT_ways g s with e | ⟨len, e | e⟩ <;> cases e.symm.trans h
  · exact .of_eq rfl (.inr rfl)
  · exact .of_eq rfl (.inr rfl)
  · exact .of_eq (State.emitIfComplete_rbuf _) (.inl (State.emitIfComplete_dead _))

theorem execPayB_movesAndLatches {d : Byte} (h : execPayB d s = .next t) :
    s.MovesAndLatches t := by
  rcases execPayB_cases d s with ⟨_, _, e⟩ | ⟨_, _, _, _, _, ⟨_, e⟩ | ⟨_, e⟩⟩ <;>
    cases e.symm.trans h <;> exact .of_eq rfl (.inl rfl)

theorem execDeliver_movesAndLatches (h : execDeliver s = .next t) : s.MovesAndLatches t := by
  unfold execDeliver at h
  split at h
  · cases h
  · cases h
    exact ⟨.inr (.inl rfl), .inl rfl⟩

theorem execSurface_movesAndLatches (h : execSurface s = .next t) : s.MovesAndLatches t := by
  unfold execSurface at h
  split at h
  · cases h
  · cases h
    exact .of_eq rfl (.inr rfl)

theorem execCapchk_movesAndLatches (h : execCapchk s = .next t) : s.MovesAndLatches t := by
  rcases execCapchk_cases s with ⟨_, _, _, e⟩ | ⟨_, _, e⟩ <;> cases e.symm.trans h
  · exact .of_eq rfl (.inr rfl)
  · exact .of_eq rfl (.inl rfl)

theorem execFill_movesAndLatches (h : execFill s = .next t) : s.MovesAndLatches t := by
  obtain ⟨hbuffer, hdead⟩ := s.movesAndLatches_rebased
  rcases execFill_cases s with ⟨_, e⟩ | ⟨_, _, e⟩ | ⟨_, _, e⟩ <;> cases e.symm.trans h <;>
    exact ⟨hbuffer, hdead⟩

theorem execReadNext_movesAndLatches (h : execReadNext s = .next t) : s.MovesAndLatches t := by
  rcases execReadNext_cases s with e | e | e <;> cases e.symm.trans h <;>
    exact .of_eq rfl (.inl rfl)

/-- Every operation but RESET makes one of the moves of R54 and keeps or sets DEAD (R215). -/
theorem exec_movesAndLatches {i : Instr} (h : exec i s = .next t) :
    i = .reset ∨ s.MovesAndLatches t := by
  cases i with
  | reset => exact .inl rfl
  | lenC g => exact .inr (Host.Outcome.next.inj h ▸ s.movesAndLatches_vbC g)
  | lenT g => cases h; exact .inr (.of_eq rfl (.inl rfl))
  | hdrC g => exact .inr (Host.Outcome.next.inj h ▸ s.movesAndLatches_vbC g)
  | hdrT g => exact .inr (execHdrT_movesAndLatches h)
  | payB d => exact .inr (execPayB_movesAndLatches h)
  | vreset => cases h; exact .inr (.of_eq rfl (.inl rfl))
  | emit => cases h; exact .inr (.of_eq rfl (.inl rfl))
  | deliver => exact .inr (execDeliver_movesAndLatches h)
  | compact => cases h; exact .inr s.movesAndLatches_compacted
  | surface => exact .inr (execSurface_movesAndLatches h)
  | stallchk => cases h; exact .inr (.of_eq rfl (.inl rfl))
  | capchk => exact .inr (execCapchk_movesAndLatches h)
  | fill => exact .inr (execFill_movesAndLatches h)
  | readNext => exact .inr (execReadNext_movesAndLatches h)
  | srcData data => cases h; exact .inr (s.movesAndLatches_answered _)
  | srcEmpty => cases h; exact .inr (s.movesAndLatches_answered _)
  | srcEof data => cases h; exact .inr (s.movesAndLatches_answered _)
  | srcErr data e => cases h; exact .inr (s.movesAndLatches_answered _)
  | srcBad x => cases h; exact .inr (.of_eq rfl (.inl rfl))

end

/-- Settles O48: the moves of R54 keep the canonical form, and an accepted RESET unlists every
byte. -/
theorem everyOperationKeepsTheBufferCanonical :
    Obligations.EveryOperationKeepsTheBufferCanonical := by
  intro i s t h hs
  rcases exec_movesAndLatches h with rfl | hmoves
  · rcases execReset_cases s with e | e <;> cases e.symm.trans h
    · rfl
    · exact hs
  · exact hmoves.buffer.wf hs

/-- Settles O53: of the operations, RESET alone can take DEAD back. -/
theorem onlyResetClearsDead : Obligations.OnlyResetClearsDead := by
  intro i s t h hs
  rcases exec_movesAndLatches h with hreset | hmoves
  · exact .inr hreset
  · exact .inl (hmoves.dead.elim (·.trans hs) id)

end Sys2Proof.Machine
end

section
/-! PROOFS. Which operations ignore RBUF, and that no other than those of R54 writes it (O51). -/

namespace Sys2Proof.Machine

/-- `s` with another RBUF: other written bytes, and another count behind the free values of the
unwritten ones (log 7). -/
def State.withStore (s : State) (m : Memory) (n : Nat) : State := { s with rbuf := m, resets := n }

@[simp] theorem State.withStore_status (s : State) (m : Memory) (n : Nat) :
    (s.withStore m n).status = s.status := rfl
@[simp] theorem State.withStore_dead (s : State) (m : Memory) (n : Nat) :
    (s.withStore m n).dead = s.dead := rfl
@[simp] theorem State.withStore_errk (s : State) (m : Memory) (n : Nat) :
    (s.withStore m n).errk = s.errk := rfl

/-- An answer with the RBUF of its next state replaced. -/
def nextWithStore (m : Memory) (n : Nat) :
    Host.Outcome State Fault Refusal → Host.Outcome State Fault Refusal
  | .next t => .next (t.withStore m n)
  | .fault f => .fault f
  | .refused x => .refused x

/-- `f` neither reads nor writes RBUF: on another RBUF it answers the same, and hands that RBUF on. -/
def IgnoresStore (f : State → Host.Outcome State Fault Refusal) : Prop :=
  ∀ s m n, f (s.withStore m n) = nextWithStore m n (f s)

/-- What hands on every RBUF hands on its own. -/
theorem IgnoresStore.keeps {f : State → Host.Outcome State Fault Refusal} (hf : IgnoresStore f)
    {s t : State} (h : f s = .next t) : t.rbuf = s.rbuf ∧ t.resets = s.resets := by
  have hself : f s = nextWithStore s.rbuf s.resets (f s) := hf s s.rbuf s.resets
  simp only [h] at hself
  have ht : t = t.withStore s.rbuf s.resets := Host.Outcome.next.inj hself
  exact ⟨(congrArg State.rbuf ht :), (congrArg State.resets ht :)⟩

/-! ### The shared updates with several ways out -/

theorem State.vbC_withStore (s : State) (m : Memory) (n : Nat) (g : Group) :
    (s.withStore m n).vbC g = (s.vbC g).withStore m n := by
  unfold State.vbC
  rw [apply_ite (State.withStore · m n)]
  rfl

theorem State.emitIfComplete_withStore (s : State) (m : Memory) (n : Nat) :
    (s.withStore m n).emitIfComplete = s.emitIfComplete.withStore m n := by
  unfold State.emitIfComplete
  rw [apply_ite (State.withStore · m n)]
  rfl

/-! ### The operations -/

theorem execLenC_ignoresStore (g : Group) : IgnoresStore (execLenC g) :=
  fun s m n => congrArg Host.Outcome.next (s.vbC_withStore m n g)

theorem execHdrC_ignoresStore (g : Group) : IgnoresStore (execHdrC g) :=
  fun s m n => congrArg Host.Outcome.next (s.vbC_withStore m n g)

theorem execLenT_ignoresStore (g : Group) : IgnoresStore (execLenT g) := fun _ _ _ => rfl

theorem execHdrT_ignoresStore (g : Group) : IgnoresStore (execHdrT g) := by
  intro s m n
  unfold execHdrT
  dsimp only
  rw [apply_ite (nextWithStore m n), apply_ite (nextWithStore m n)]
  simp only [nextWithStore, ← State.emitIfComplete_withStore]
  rfl

theorem execSurface_ignoresStore : IgnoresStore execSurface := by
  intro s m n
  simp only [execSurface, State.withStore_errk]
  cases s.errk with
  | none => rfl
  | some k => rfl

theorem execStallchk_ignoresStore : IgnoresStore execStallchk := fun _ _ _ => rfl

theorem execCapchk_ignoresStore : IgnoresStore execCapchk := by
  intro s m n
  unfold execCapchk
  rw [apply_ite (nextWithStore m n)]
  rfl

theorem execReadNext_ignoresStore : IgnoresStore execReadNext := by
  intro s m n
  simp only [execReadNext, State.withStore_status, State.withStore_dead]
  cases s.status with
  | idle =>
    dsimp only
    rw [apply_ite (nextWithStore m n)]
    rfl
  | busy => rfl
  | fault => rfl

/-- An answer without bytes writes nothing to RBUF, whatever else it does (R174 to R177). -/
theorem State.answered_keepsStore (s : State) {x : SrcResp} (hx : x.data = []) :
    (s.answered x).rbuf = s.rbuf ∧ (s.answered x).resets = s.resets := by
  rcases s.answered_cases x with ⟨_, e⟩ | ⟨_, ⟨_, e⟩ | ⟨_, e⟩ | ⟨_, _, e⟩ | ⟨_, _, _, e⟩ |
    ⟨_, _, _, e⟩⟩ <;> simp [e, hx, Memory.write]

/-- A burst reads RBUF and writes none of it (R125). -/
theorem execPayB_keepsStore {s t : State} {d : Byte} (h : execPayB d s = .next t) :
    t.rbuf = s.rbuf ∧ t.resets = s.resets := by
  rcases execPayB_cases d s with ⟨_, _, e⟩ | ⟨_, _, _, _, _, ⟨_, e⟩ | ⟨_, e⟩⟩ <;>
    cases e.symm.trans h <;> exact ⟨rfl, rfl⟩

/-- Settles O51: an operation outside the list ignores RBUF, or reads it only, or has no bytes to
store. -/
theorem onlySourceAndCompactionWriteTheBuffer :
    Obligations.OnlySourceAndCompactionWriteTheBuffer := by
  intro i s t h
  cases i with
  | lenC g => exact .inl ((execLenC_ignoresStore g).keeps h)
  | lenT g => exact .inl ((execLenT_ignoresStore g).keeps h)
  | hdrC g => exact .inl ((execHdrC_ignoresStore g).keeps h)
  | hdrT g => exact .inl ((execHdrT_ignoresStore g).keeps h)
  | payB d => exact .inl (execPayB_keepsStore h)
  | vreset => cases h; exact .inl ⟨rfl, rfl⟩
  | emit => cases h; exact .inl ⟨rfl, rfl⟩
  | surface => exact .inl (execSurface_ignoresStore.keeps h)
  | stallchk => exact .inl (execStallchk_ignoresStore.keeps h)
  | capchk => exact .inl (execCapchk_ignoresStore.keeps h)
  | readNext => exact .inl (execReadNext_ignoresStore.keeps h)
  | srcEmpty => cases h; exact .inl (s.answered_keepsStore rfl)
  | srcBad x => cases h; exact .inl ⟨rfl, rfl⟩
  | deliver => simp
  | compact => simp
  | fill => simp
  | reset => simp
  | srcData data =>
    by_cases hd : data = []
    · cases h; exact .inl (s.answered_keepsStore hd)
    · simp [hd]
  | srcEof data =>
    by_cases hd : data = []
    · cases h; exact .inl (s.answered_keepsStore hd)
    · simp [hd]
  | srcErr data e =>
    by_cases hd : data = []
    · cases h; exact .inl (s.answered_keepsStore hd)
    · simp [hd]

end Sys2Proof.Machine
end

section
/-! PROOFS. The bytes of RBUF outside `[R, W)` influence nothing (O57). -/

namespace Sys2Proof.Machine

/-- `s` with other bytes written in RBUF. -/
def State.withRbuf (s : State) (m : Memory) : State := { s with rbuf := m }

@[simp] theorem State.withRbuf_status (s : State) (m : Memory) :
    (s.withRbuf m).status = s.status := rfl
@[simp] theorem State.withRbuf_msgq (s : State) (m : Memory) : (s.withRbuf m).msgq = s.msgq := rfl
@[simp] theorem State.withRbuf_loc (s : State) (m : Memory) : (s.withRbuf m).loc = s.loc := rfl
@[simp] theorem State.withRbuf_hostq (s : State) (m : Memory) :
    (s.withRbuf m).hostq = s.hostq := rfl
@[simp] theorem State.withRbuf_srcq (s : State) (m : Memory) : (s.withRbuf m).srcq = s.srcq := rfl

/-- The unread bytes of `s`, those at `R` or above and below `W`, stand in `m` too. -/
def State.UnreadAgrees (s : State) (m : Memory) : Prop :=
  ∀ a, s.r ≤ a → a < s.w → Memory.byteAt m s.resets a = s.byteAt a

/-- Two answers alike but for the bytes of RBUF that the first leaves outside `[R, W)`. -/
inductive SameUpToStale :
    Host.Outcome State Fault Refusal → Host.Outcome State Fault Refusal → Prop where
  | next {t : State} {m : Memory} (h : t.UnreadAgrees m) :
    SameUpToStale (.next t) (.next (t.withRbuf m))
  | fault (f : Fault) : SameUpToStale (.fault f) (.fault f)
  | refused (x : Refusal) : SameUpToStale (.refused x) (.refused x)

theorem SameUpToStale.of_next {t : State} {o : Host.Outcome State Fault Refusal}
    (h : SameUpToStale (.next t) o) : ∃ m, o = .next (t.withRbuf m) ∧ t.UnreadAgrees m := by
  cases h with
  | next hu => exact ⟨_, rfl, hu⟩

theorem SameUpToStale.of_fault {f : Fault} {o : Host.Outcome State Fault Refusal}
    (h : SameUpToStale (.fault f) o) : o = .fault f := by
  cases h
  rfl

/-- From `s` to `t`, the unread window `[R, W)` loses bytes at most. -/
def State.Narrows (s t : State) : Prop := s.r ≤ t.r ∧ t.w ≤ s.w

section
variable {s t : State} {m : Memory}

/-! ### The unread bytes of the next state -/

theorem State.UnreadAgrees.narrow (h : s.UnreadAgrees m) (hn : s.Narrows t)
    (hb : t.rbuf = s.rbuf) (hc : t.resets = s.resets) : t.UnreadAgrees m := by
  obtain ⟨hr, hw⟩ := hn
  intro a h1 h2
  rw [hc, State.byteAt, hb, hc]
  exact h a (hr.trans h1) (h2.trans_le hw)

/-- COMPACT moves unread bytes only (R144). -/
theorem State.UnreadAgrees.compacted (h : s.UnreadAgrees m) :
    s.compacted.UnreadAgrees (s.withRbuf m).compacted.rbuf := by
  intro a _ ha
  have hin : a < s.w - s.r := ha.trans_le (s.index_le _)
  have hmoved : (s.withRbuf m).compacted.byteAt a = s.compacted.byteAt a := by
    rw [State.compacted_byteAt, State.compacted_byteAt, if_pos hin]
    exact (if_pos hin).trans (h (s.r + a) (Nat.le_add_right _ _) (by omega))
  exact hmoved

/-- The bytes of a response stand behind the unread ones, whatever was there (R173). -/
theorem State.UnreadAgrees.receive (h : s.UnreadAgrees m) (data : List Byte) :
    (s.receive data).UnreadAgrees (Memory.write m s.w data) := by
  intro a h1 h2
  have hlen : a < s.w + data.length := h2.trans_le (s.index_le _)
  rw [State.receive_byteAt, Memory.byteAt_write]
  split
  · rfl
  · exact h a h1 (by omega)

/-- An operation that ignores RBUF, and leaves no byte unread that was not. -/
theorem IgnoresStore.sameUpToStale {f : State → Host.Outcome State Fault Refusal}
    (hf : IgnoresStore f) (h : s.UnreadAgrees m) (hn : ∀ t, f s = .next t → s.Narrows t) :
    SameUpToStale (f s) (f (s.withRbuf m)) := by
  have e : f (s.withRbuf m) = nextWithStore m s.resets (f s) := hf s m s.resets
  rw [e]
  cases ht : f s with
  | next t =>
    obtain ⟨hb, hc⟩ := hf.keeps ht
    have hstore : t.withStore m s.resets = t.withRbuf m := by rw [← hc]; rfl
    rw [nextWithStore, hstore]
    exact .next (h.narrow (hn t ht) hb hc)
  | fault g => exact .fault g
  | refused x => exact .refused x

/-! ### How far R moves -/

theorem State.Narrows.of_eq (hr : t.r = s.r) (hw : t.w = s.w) : s.Narrows t :=
  ⟨hr.ge, hw.le⟩

/-- R advances, and no bit of it is lost (R26). -/
theorem State.Narrows.of_index {v : Nat} (hv : s.r ≤ v) (hcap : v ≤ s.params.cap)
    (hr : t.r = s.index v) (hw : t.w = s.w) : s.Narrows t :=
  ⟨by rw [hr, State.index_of_le hcap]; exact hv, hw.le⟩

/-- A varint byte moves R over itself. -/
theorem State.Narrows.of_succ (hin : s.r < s.params.cap) (hr : t.r = s.index (s.r + 1))
    (hw : t.w = s.w) : s.Narrows t :=
  .of_index (Nat.le_succ _) hin hr hw

theorem State.narrows_vbC (hin : s.r < s.params.cap) (g : Group) : s.Narrows (s.vbC g) := by
  rcases s.vbC_cases g with ⟨_, e⟩ | ⟨_, e⟩ <;> rw [e] <;> exact .of_succ hin rfl rfl

@[simp] theorem State.emitIfComplete_r (s : State) : s.emitIfComplete.r = s.r := by
  rcases s.emitIfComplete_cases with ⟨_, e⟩ | ⟨_, e⟩ <;> simp [e]

@[simp] theorem State.emitIfComplete_w (s : State) : s.emitIfComplete.w = s.w := by
  rcases s.emitIfComplete_cases with ⟨_, e⟩ | ⟨_, e⟩ <;> simp [e]

theorem execHdrT_narrows (hin : s.r < s.params.cap) {g : Group} (ht : execHdrT g s = .next t) :
    s.Narrows t := by
  rcases execHdrT_ways g s with e | ⟨len, e | e⟩ <;> cases e.symm.trans ht
  · exact .of_succ hin rfl rfl
  · exact .of_succ hin rfl rfl
  · exact .of_succ hin (State.emitIfComplete_r _) (State.emitIfComplete_w _)

/-! ### The operations of the stream bytes (R145) -/

/-- A burst reads unread bytes only (R125). -/
theorem State.UnreadAgrees.burst_eq (h : s.UnreadAgrees m) (d : Byte) :
    (s.withRbuf m).burst d = s.burst d := by
  have hlen : (s.withRbuf m).burstLen = s.burstLen := rfl
  have hle := s.burstLen_le.2
  simp only [State.burst, hlen]
  cases hk : s.burstLen with
  | zero => rfl
  | succ k =>
    have hread :
        (s.withRbuf m).readBytes ((s.withRbuf m).r + 1) k = s.readBytes (s.r + 1) k :=
      State.readBytes_congr (a := s.r + 1) rfl fun j h1 h2 => h j (by omega) (by omega)
    simp only [hread]

/-- A burst that answers ends at `CAP` or before it. -/
theorem State.burst_inside (hin : s.r < s.params.cap) {d : Byte} {bs : List Byte}
    (h : s.burst d = .ok bs) : s.r + s.burstLen ≤ s.params.cap := by
  by_contra hout
  have hstop : s.burst d = .error .outsideBuffer := State.burst_outside (by omega) (by omega)
  cases hstop.symm.trans h

/-- The registers behind a burst of the bytes `bs` (R125). -/
def State.tookBurst (s : State) (bs : List Byte) : State :=
  { s with
    pay := s.pay ++ bs
    r := s.index (s.r + s.burstLen)
    pmiss := s.pmiss - BitVec.ofNat 64 s.burstLen }

theorem execPayB_of_burst {d : Byte} {bs : List Byte} (hb : s.burst d = .ok bs) :
    execPayB d s = .next (s.tookBurst bs).emitIfComplete := by
  simp only [execPayB, hb]
  rfl

theorem execPayB_of_burst_error {d : Byte} {f : Fault} (hb : s.burst d = .error f) :
    execPayB d s = .fault f := by
  simp only [execPayB, hb]

theorem State.tookBurst_ignoresStore (bs : List Byte) :
    IgnoresStore fun s => .next (s.tookBurst bs).emitIfComplete :=
  fun s m n => congrArg Host.Outcome.next ((s.tookBurst bs).emitIfComplete_withStore m n)

theorem State.UnreadAgrees.same_execPayB (h : s.UnreadAgrees m) (hin : s.r < s.params.cap)
    (d : Byte) :
    SameUpToStale (execPayB d s) (execPayB d (s.withRbuf m)) := by
  cases hb : s.burst d with
  | error f =>
    rw [execPayB_of_burst_error hb, execPayB_of_burst_error ((h.burst_eq d).trans hb)]
    exact .fault f
  | ok bs =>
    rw [execPayB_of_burst hb, execPayB_of_burst ((h.burst_eq d).trans hb)]
    refine (State.tookBurst_ignoresStore bs).sameUpToStale h fun t ht => ?_
    cases ht
    exact .of_index (Nat.le_add_right _ _) (State.burst_inside hin hb)
      (State.emitIfComplete_r _) (State.emitIfComplete_w _)

theorem State.UnreadAgrees.same_exec_decodeByte (h : s.UnreadAgrees m) (hin : s.r < s.params.cap)
    (p : Phase) (b : Byte) :
    SameUpToStale (exec (decodeByte p b) s) (exec (decodeByte p b) (s.withRbuf m)) := by
  rcases decodeByte_cases p b with ⟨_, g, e | e⟩ | ⟨_, g, e | e⟩ | ⟨_, e⟩ <;> rw [e]
  · refine (execLenC_ignoresStore g).sameUpToStale h fun t ht => ?_
    cases ht
    exact State.narrows_vbC hin g
  · refine (execLenT_ignoresStore g).sameUpToStale h fun t ht => ?_
    cases ht
    exact .of_succ hin rfl rfl
  · refine (execHdrC_ignoresStore g).sameUpToStale h fun t ht => ?_
    cases ht
    exact State.narrows_vbC hin g
  · exact (execHdrT_ignoresStore g).sameUpToStale h fun t ht => execHdrT_narrows hin ht
  · exact h.same_execPayB hin b

/-! ### The micro-operations of the drive loop -/

theorem State.UnreadAgrees.same_execDeliver (h : s.UnreadAgrees m) :
    SameUpToStale (execDeliver s) (execDeliver (s.withRbuf m)) := by
  simp only [execDeliver, State.withRbuf_msgq]
  cases s.msgq with
  | nil => exact .fault _
  | cons head rest =>
    exact .next (t := { s with msgq := rest }.compacted.respond (.message head)) h.compacted

theorem State.UnreadAgrees.same_execSurface (h : s.UnreadAgrees m) :
    SameUpToStale (execSurface s) (execSurface (s.withRbuf m)) := by
  refine execSurface_ignoresStore.sameUpToStale h fun t ht => ?_
  unfold execSurface at ht
  split at ht
  · cases ht
  · cases ht
    exact .of_eq rfl rfl

theorem State.UnreadAgrees.same_execStallchk (h : s.UnreadAgrees m) :
    SameUpToStale (execStallchk s) (execStallchk (s.withRbuf m)) := by
  refine execStallchk_ignoresStore.sameUpToStale h fun t ht => ?_
  cases ht
  exact .of_eq rfl rfl

theorem State.UnreadAgrees.same_execCapchk (h : s.UnreadAgrees m) :
    SameUpToStale (execCapchk s) (execCapchk (s.withRbuf m)) := by
  refine execCapchk_ignoresStore.sameUpToStale h fun t ht => ?_
  rcases execCapchk_cases s with ⟨_, _, _, e⟩ | ⟨_, _, e⟩ <;> cases e.symm.trans ht <;>
    exact .of_eq rfl rfl

/-! ### FILL and the answers of the source -/

theorem State.readOrGiveUp_withStore (s : State) (m : Memory) (n : Nat) :
    (s.withStore m n).readOrGiveUp = s.readOrGiveUp.withStore m n := by
  unfold State.readOrGiveUp
  rw [apply_ite (State.withStore · m n)]
  rfl

@[simp] theorem State.readOrGiveUp_r (s : State) : s.readOrGiveUp.r = s.r := by
  unfold State.readOrGiveUp
  split <;> rfl

@[simp] theorem State.readOrGiveUp_w (s : State) : s.readOrGiveUp.w = s.w := by
  unfold State.readOrGiveUp
  split <;> rfl

/-- FILL behind its compaction: F2 and F3 of R170. -/
def fillRebased (s : State) : Host.Outcome State Fault Refusal :=
  if s.params.cap ≤ s.w then .next (s.panic .full)
  else .next { s with empties := 0 }.readOrGiveUp

theorem execFill_eq (s : State) : execFill s = fillRebased s.rebased := rfl

theorem fillRebased_ignoresStore : IgnoresStore fillRebased := by
  intro s m n
  unfold fillRebased
  rw [apply_ite (nextWithStore m n)]
  simp only [nextWithStore, ← State.readOrGiveUp_withStore]
  rfl

theorem fillRebased_narrows (ht : fillRebased s = .next t) : s.Narrows t := by
  unfold fillRebased at ht
  split at ht
  · cases ht
    exact .of_eq rfl rfl
  · cases ht
    exact .of_eq (State.readOrGiveUp_r _) (State.readOrGiveUp_w _)

theorem State.rebased_of_pos (hr : 0 < s.r) : s.rebased = s.compacted := if_pos hr

theorem State.rebased_of_zero (hr : ¬ 0 < s.r) : s.rebased = s := if_neg hr

theorem State.UnreadAgrees.rebased (h : s.UnreadAgrees m) :
    ∃ m', (s.withRbuf m).rebased = s.rebased.withRbuf m' ∧
      s.rebased.UnreadAgrees m' := by
  by_cases hr : 0 < s.r
  · rw [State.rebased_of_pos hr]
    exact ⟨_, State.rebased_of_pos (s := s.withRbuf m) hr, h.compacted⟩
  · rw [State.rebased_of_zero hr]
    exact ⟨m, State.rebased_of_zero (s := s.withRbuf m) hr, h⟩

theorem State.UnreadAgrees.same_execFill (h : s.UnreadAgrees m) :
    SameUpToStale (execFill s) (execFill (s.withRbuf m)) := by
  obtain ⟨m', e, h'⟩ := h.rebased
  rw [execFill_eq, execFill_eq, e]
  exact fillRebased_ignoresStore.sameUpToStale h' fun _ => fillRebased_narrows

/-- One turn of the read loop behind the bytes it stores (R170 F3). -/
def State.turned (x : SrcResp) (s : State) : State :=
  if x.st = 1 then { s with errk := some .endOfStream }.fillReturn
  else if x.st = 2 then { s with errk := some .sourceError, erre := s.errCode x.e }.fillReturn
  else if 0 < x.n then s.fillReturn
  else { s with empties := s.emptyCount (s.empties + 1) }.readOrGiveUp

/-- An answer outside the contract (R177). -/
theorem State.answered_outside {x : SrcResp} (hx : x.st = 3 ∨ s.params.cap < s.w + x.n) :
    s.answered x = s.panic .badRead := if_pos hx

theorem State.answered_inside {x : SrcResp} (hx : ¬ (x.st = 3 ∨ s.params.cap < s.w + x.n)) :
    s.answered x = (s.receive x.data).turned x := if_neg hx

theorem State.turned_ignoresStore (x : SrcResp) : IgnoresStore fun s => .next (s.turned x) := by
  refine fun s m n => congrArg Host.Outcome.next ?_
  unfold State.turned
  rw [apply_ite (State.withStore · m n), apply_ite (State.withStore · m n),
    apply_ite (State.withStore · m n), ← State.readOrGiveUp_withStore]
  rfl

theorem State.narrows_turned (s : State) (x : SrcResp) : s.Narrows (s.turned x) := by
  unfold State.turned
  split_ifs
  · exact .of_eq rfl rfl
  · exact .of_eq rfl rfl
  · exact .of_eq rfl rfl
  · exact .of_eq (State.readOrGiveUp_r _) (State.readOrGiveUp_w _)

theorem State.UnreadAgrees.same_panic (h : s.UnreadAgrees m) (c : PanicCause) :
    SameUpToStale (.next (s.panic c)) (.next ((s.withRbuf m).panic c)) :=
  .next (t := s.panic c) h

theorem State.UnreadAgrees.same_answered (h : s.UnreadAgrees m) (x : SrcResp) :
    SameUpToStale (.next (s.answered x)) (.next ((s.withRbuf m).answered x)) := by
  by_cases hx : x.st = 3 ∨ s.params.cap < s.w + x.n
  · rw [State.answered_outside hx, State.answered_outside (s := s.withRbuf m) hx]
    exact h.same_panic .badRead
  · rw [State.answered_inside hx, State.answered_inside (s := s.withRbuf m) hx]
    refine (State.turned_ignoresStore x).sameUpToStale (h.receive x.data) fun t ht => ?_
    cases ht
    exact State.narrows_turned _ x

theorem State.UnreadAgrees.same_exec_decodeResponse (h : s.UnreadAgrees m) (room : Nat)
    (x : SrcResp) :
    SameUpToStale (exec (decodeResponse room x) s)
      (exec (decodeResponse room x) (s.withRbuf m)) := by
  unfold decodeResponse
  split_ifs
  · exact h.same_panic .badRead
  · exact h.same_answered _
  · exact h.same_answered _
  · exact h.same_answered _
  · exact h.same_answered _

/-! ### The host's commands -/

theorem State.UnreadAgrees.same_execReadNext (h : s.UnreadAgrees m) :
    SameUpToStale (execReadNext s) (execReadNext (s.withRbuf m)) := by
  refine execReadNext_ignoresStore.sameUpToStale h fun t ht => ?_
  rcases execReadNext_cases s with e | e | e <;> cases e.symm.trans ht <;> exact .of_eq rfl rfl

/-- An accepted RESET leaves nothing unread (R153). -/
theorem State.UnreadAgrees.same_execReset (h : s.UnreadAgrees m) :
    SameUpToStale (execReset s) (execReset (s.withRbuf m)) := by
  have hempty : s.cleared.UnreadAgrees [] := fun a _ ha => absurd ha (Nat.not_lt_zero a)
  simp only [execReset, State.withRbuf_status]
  cases s.status with
  | idle => exact .next hempty
  | busy => exact .next h
  | fault => exact .next hempty

theorem State.UnreadAgrees.same_exec_decodeCommand (h : s.UnreadAgrees m) (c : BitVec 1) :
    SameUpToStale (exec (decodeCommand c) s) (exec (decodeCommand c) (s.withRbuf m)) := by
  unfold decodeCommand
  split
  · exact h.same_execReadNext
  · exact h.same_execReset

/-! ### The sequencer and the step -/

/-- The next operation, on a state with another RBUF. -/
def nextOpWithRbuf (m : Memory) :
    Except Fault (Option (Instr × State)) → Except Fault (Option (Instr × State))
  | .error f => .error f
  | .ok none => .ok none
  | .ok (some (i, t)) => .ok (some (i, t.withRbuf m))

/-- The one byte the sequencer reads is an unread one (R141 L2). -/
theorem State.UnreadAgrees.loopTop_eq (h : s.UnreadAgrees m) :
    (s.withRbuf m).loopTop = s.loopTop := by
  unfold State.loopTop
  refine ite_congr rfl (fun _ => rfl) fun _ => ite_congr rfl (fun hrw => ?_) fun _ => rfl
  have hbyte : (s.withRbuf m).byteAt s.r = s.byteAt s.r := h s.r (Nat.le_refl _) hrw
  have hread : (s.withRbuf m).readByte (s.withRbuf m).r = s.readByte s.r :=
    ite_congr rfl (fun _ => rfl) fun _ => congrArg Except.ok hbyte
  rw [hread]
  rfl

theorem State.UnreadAgrees.loopNext_eq (h : s.UnreadAgrees m) :
    (s.withRbuf m).loopNext = nextOpWithRbuf m s.loopNext := by
  simp only [State.loopNext, h.loopTop_eq, State.withRbuf_loc, State.withRbuf_srcq]
  cases s.loc with
  | top => cases s.loopTop <;> rfl
  | capchk => rfl
  | fill => rfl
  | srcWait => cases s.srcq <;> rfl

theorem State.UnreadAgrees.nextOp_eq (h : s.UnreadAgrees m) :
    (s.withRbuf m).nextOp = nextOpWithRbuf m s.nextOp := by
  simp only [State.nextOp, h.loopNext_eq, State.withRbuf_hostq, State.withRbuf_status]
  cases s.hostq with
  | nil =>
    dsimp only
    rw [apply_ite (nextOpWithRbuf m)]
    rfl
  | cons ev rest =>
    dsimp only
    rw [apply_ite (nextOpWithRbuf m)]
    rfl

theorem State.UnreadAgrees.same_exec_loopNext {s' : State} {i : Instr} (h : s.UnreadAgrees m)
    (hl : s.loopNext = .ok (some (i, s'))) :
    SameUpToStale (exec i s') (exec i (s'.withRbuf m)) := by
  rcases State.loopNext_cases hl with ⟨_, rfl, htop⟩ | ⟨_, rfl, rfl⟩ | ⟨_, rfl, rfl⟩ |
    ⟨_, x, rest, _, rfl, rfl⟩
  · rcases htop with ⟨_, rfl⟩ | ⟨_, _, b, hb, rfl⟩ | ⟨_, _, _, rfl⟩ | ⟨_, _, _, rfl⟩
    · exact h.same_execDeliver
    · exact h.same_exec_decodeByte (State.readByte_ok.1 hb).1 s'.phase b
    · exact h.same_execSurface
    · exact h.same_execStallchk
  · exact h.same_execCapchk
  · exact h.same_execFill
  · exact State.UnreadAgrees.same_exec_decodeResponse (s := { s with srcq := rest }) h s.room x

theorem State.UnreadAgrees.same_step (h : s.UnreadAgrees m) :
    SameUpToStale (step s) (step (s.withRbuf m)) := by
  simp only [step, h.nextOp_eq]
  cases hn : s.nextOp with
  | error f => exact .fault f
  | ok next =>
    cases next with
    | none => exact .next h
    | some op =>
      obtain ⟨i, s'⟩ := op
      rcases State.nextOp_cases hn with ⟨ev, rest, _, _, rfl, rfl⟩ | ⟨_, hl⟩
      · exact State.UnreadAgrees.same_exec_decodeCommand (s := { s with hostq := rest }) h ev.cmd
      · exact h.same_exec_loopNext hl

end

/-- Settles O57: what a step reads of RBUF, and what it moves, is unread; the rest of the step
ignores RBUF. -/
theorem staleBufferBytesInfluenceNothing : Obligations.StaleBufferBytesInfluenceNothing := by
  intro s m h
  have hstep : SameUpToStale (step s) (step (s.withRbuf m)) := State.UnreadAgrees.same_step h
  exact ⟨fun t ht => SameUpToStale.of_next (ht ▸ hstep),
    fun f hf => SameUpToStale.of_fault (hf ▸ hstep)⟩

end Sys2Proof.Machine
end

section
/-! PROOFS. The opcode map: what PHASE, bit 7, the status and the count select, and the two ways of
the round trip between words and operations (O1 to O5). -/

namespace Sys2Proof

/-! ### Stream bytes and commands -/

theorem decodeByte_awaitLen (b : Byte) :
    decodeByte .awaitLen b = if 128 ≤ b.toNat then .lenC (groupOf b) else .lenT (groupOf b) := by
  simp [decodeByte, flagOf_eq_decide]

theorem decodeByte_awaitHeader (b : Byte) :
    decodeByte .awaitHeader b = if 128 ≤ b.toNat then .hdrC (groupOf b) else .hdrT (groupOf b) := by
  simp [decodeByte, flagOf_eq_decide]

@[simp] theorem decodeByte_awaitLen_byteOf (c : Bool) (g : Group) :
    decodeByte .awaitLen (byteOf c g) = if c then .lenC g else .lenT g := by
  simp [decodeByte]

@[simp] theorem decodeByte_awaitHeader_byteOf (c : Bool) (g : Group) :
    decodeByte .awaitHeader (byteOf c g) = if c then .hdrC g else .hdrT g := by
  simp [decodeByte]

theorem groupOf_toNat_of_flag {b : Byte} (h : 128 ≤ b.toNat) :
    (groupOf b).toNat = b.toNat - 128 := by
  have hb : b.toNat < 256 := b.isLt
  rw [groupOf_toNat]
  omega

theorem groupOf_toNat_of_no_flag {b : Byte} (h : b.toNat < 128) : (groupOf b).toNat = b.toNat := by
  rw [groupOf_toNat, Nat.mod_eq_of_lt h]

/-- The words of a varint byte, whichever of the two rows its flag selects. -/
theorem byteOf_groupOf_of_flag {b : Byte} {c : Bool} (h : flagOf b = c) :
    byteOf c (groupOf b) = b := by
  rw [← h, byteOf_flagOf_groupOf]

theorem encode_decodeByte (p : Phase) (b : Byte) : encode (decodeByte p b) = some (.stream b) := by
  cases p with
  | awaitLen => cases h : flagOf b <;> simp [decodeByte, h, encode, byteOf_groupOf_of_flag h]
  | awaitHeader => cases h : flagOf b <;> simp [decodeByte, h, encode, byteOf_groupOf_of_flag h]
  | awaitPayload => rfl

/-- No stream byte is refused (R14), and each is met in the phase it was decoded in. -/
theorem decodeByte_wellFormed_inPhase (room ew : Nat) (p : Phase) (b : Byte) :
    (decodeByte p b).wellFormed room ew = true ∧ (decodeByte p b).inPhase p = true := by
  rcases Machine.decodeByte_cases p b with ⟨rfl, g, h | h⟩ | ⟨rfl, g, h | h⟩ | ⟨rfl, h⟩ <;>
    rw [h] <;> exact ⟨rfl, rfl⟩

theorem encode_decodeCommand (c : BitVec 1) :
    encode (decodeCommand c) = some (.command c) := by
  revert c; decide

theorem decodeCommand_wellFormed (room ew : Nat) (c : BitVec 1) :
    (decodeCommand c).wellFormed room ew = true := by
  unfold decodeCommand
  split <;> rfl

/-! ### Source responses: the selection of R84 -/

section
variable {room : Nat} {x : SrcResp}

theorem decodeResponse_bad (h : x.st = 3 ∨ room < x.n) : decodeResponse room x = .srcBad x :=
  if_pos h

theorem decodeResponse_eof (hs : x.st = 1) (hn : x.n ≤ room) :
    decodeResponse room x = .srcEof x.data := by
  simp [decodeResponse, hs, hn.not_gt]

theorem decodeResponse_err (hs : x.st = 2) (hn : x.n ≤ room) :
    decodeResponse room x = .srcErr x.data x.e := by
  simp [decodeResponse, hs, hn.not_gt]

theorem decodeResponse_empty (hs : x.st = 0) (hn : x.n = 0) : decodeResponse room x = .srcEmpty := by
  simp [decodeResponse, hs, hn]

theorem decodeResponse_data (hs : x.st = 0) (hpos : 0 < x.n) (hn : x.n ≤ room) :
    decodeResponse room x = .srcData x.data := by
  simp [decodeResponse, hs, hn.not_gt, hpos.ne']

/-- The offered room does not matter to a response without bytes. -/
theorem decodeResponse_of_no_data (room' : Nat) (h : x.data = []) :
    decodeResponse room x = decodeResponse room' x := by
  simp [decodeResponse, SrcResp.n, h]

end

/-! ### The obligations -/

/-- Settles O3: the phase selects among the rows of a stream byte, the status and the count among those
of a response. -/
theorem decodeInvertsEncode : Obligations.DecodeInvertsEncode := by
  intro i p room ew hwf hphase
  cases i with
  | lenC g | lenT g =>
    obtain rfl : p = .awaitLen := of_decide_eq_true hphase
    exact .inl ⟨_, rfl, decodeByte_awaitLen_byteOf _ g⟩
  | hdrC g | hdrT g =>
    obtain rfl : p = .awaitHeader := of_decide_eq_true hphase
    exact .inl ⟨_, rfl, decodeByte_awaitHeader_byteOf _ g⟩
  | payB d =>
    obtain rfl : p = .awaitPayload := of_decide_eq_true hphase
    exact .inl ⟨_, rfl, rfl⟩
  | vreset | emit | deliver | compact | surface | stallchk | capchk | fill =>
    exact .inr ⟨rfl, by simp⟩
  | readNext | reset => exact .inl ⟨_, rfl, rfl⟩
  | srcData data =>
    obtain ⟨hpos, hroom⟩ : 0 < data.length ∧ data.length ≤ room := by
      simpa [Instr.wellFormed] using hwf
    exact .inl ⟨_, rfl, decodeResponse_data rfl hpos hroom⟩
  | srcEmpty => exact .inl ⟨_, rfl, decodeResponse_empty rfl rfl⟩
  | srcEof data =>
    have hroom : data.length ≤ room := of_decide_eq_true hwf
    exact .inl ⟨_, rfl, decodeResponse_eof rfl hroom⟩
  | srcErr data e =>
    obtain ⟨hroom, -⟩ : data.length ≤ room ∧ e < 2 ^ ew := by simpa [Instr.wellFormed] using hwf
    exact .inl ⟨_, rfl, decodeResponse_err rfl hroom⟩
  | srcBad x =>
    have hbad : x.st = 3 ∨ room < x.n := of_decide_eq_true hwf
    exact .inl ⟨_, rfl, decodeResponse_bad hbad⟩

/-- Settles O4: a varint byte is its flag and its group, and a payload byte or a command bit is the
operand itself. -/
theorem encodeInvertsDecodeOnBytesAndCommands :
    Obligations.EncodeInvertsDecodeOnBytesAndCommands := fun p room ew =>
  ⟨fun b => ⟨encode_decodeByte p b, decodeByte_wellFormed_inPhase room ew p b⟩,
    fun c => ⟨encode_decodeCommand c, decodeCommand_wellFormed room ew c⟩⟩

/-- Settles O5, one clause for each row of R84. -/
theorem responseStatusAndCountSelectTheOperation :
    Obligations.ResponseStatusAndCountSelectTheOperation := by
  intro room x
  have code (k : BitVec 2) (h : x.st.toNat = k.toNat) : x.st = k := BitVec.eq_of_toNat_eq h
  exact ⟨fun h => decodeResponse_bad (h.imp_left (code 3)),
    fun h => decodeResponse_data (code 0 h), fun h => decodeResponse_empty (code 0 h),
    fun h => decodeResponse_eof (code 1 h), fun h => decodeResponse_err (code 2 h)⟩

/-- Settles O1, by evaluation of the decoder on the words. -/
theorem exampleWordsDecode : Obligations.ExampleWordsDecode := by
  unfold Obligations.ExampleWordsDecode
  decide

/-- Settles O2: bit 7 is set exactly from 128 on, and the group is the byte without it. -/
theorem phaseAndFlagSelectTheOperation : Obligations.PhaseAndFlagSelectTheOperation := by
  refine fun b => ⟨fun h => ?_, fun h => ?_, rfl⟩
  · have hg : (groupOf b).toNat = b.toNat - 128 := groupOf_toNat_of_flag h
    exact ⟨⟨_, hg, by rw [decodeByte_awaitLen, if_pos h]⟩,
      ⟨_, hg, by rw [decodeByte_awaitHeader, if_pos h]⟩⟩
  · have hg : (groupOf b).toNat = b.toNat := groupOf_toNat_of_no_flag h
    exact ⟨⟨_, hg, by rw [decodeByte_awaitLen, if_neg h.not_ge]⟩,
      ⟨_, hg, by rw [decodeByte_awaitHeader, if_neg h.not_ge]⟩⟩

end Sys2Proof
end

section
/-! PROOFS. The reference varint: its length is the shortest, and its value is the number (O6). -/

namespace Sys2Proof.Machine

/-! ### The length -/

theorem le_encLenFrom (fuel k v : Nat) : k ≤ encLenFrom fuel k v := by
  induction fuel generalizing k with
  | zero => exact le_rfl
  | succ fuel ih =>
    simp only [encLenFrom]
    split
    · exact le_rfl
    · exact (Nat.le_succ k).trans (ih (k + 1))

theorem encLenFrom_le (fuel k v : Nat) : encLenFrom fuel k v ≤ k + fuel := by
  induction fuel generalizing k with
  | zero => exact le_rfl
  | succ fuel ih =>
    simp only [encLenFrom]
    split
    · exact Nat.le_add_right k _
    · exact (ih (k + 1)).trans_eq (Nat.succ_add_eq_add_succ k fuel)

theorem lt_two_pow_encLenFrom {v : Nat} (fuel k : Nat) (h : v < 2 ^ (7 * (k + fuel))) :
    v < 2 ^ (7 * encLenFrom fuel k v) := by
  induction fuel generalizing k with
  | zero => exact h
  | succ fuel ih =>
    simp only [encLenFrom]
    split
    · assumption
    · exact ih (k + 1) (by rwa [Nat.succ_add_eq_add_succ])

/-- The search for a length stops at the first one that suffices. -/
theorem encLenFrom_le_of_lt {v j : Nat} (fuel k : Nat) (hv : v < 2 ^ (7 * j)) (hk : k ≤ j) :
    encLenFrom fuel k v ≤ j := by
  induction fuel generalizing k with
  | zero => exact hk
  | succ fuel ih =>
    simp only [encLenFrom]
    split
    · exact hk
    · rename_i hnot
      have hne : k ≠ j := fun h => hnot (h ▸ hv)
      exact ih (k + 1) (by omega)

/-- A number of `k + 1` groups is its last group and a number of `k` groups. -/
theorem lt_two_pow_groups_succ (v k : Nat) : v < 2 ^ (7 * (k + 1)) ↔ v / 128 < 2 ^ (7 * k) := by
  rw [Nat.div_lt_iff_lt_mul (by decide), Nat.mul_succ, Nat.pow_add]

theorem encLenFrom_succ (fuel k v : Nat) :
    encLenFrom fuel (k + 1) v = encLenFrom fuel k (v / 128) + 1 := by
  induction fuel generalizing k with
  | zero => rfl
  | succ fuel ih =>
    simp only [encLenFrom, lt_two_pow_groups_succ, ih]
    split <;> rfl

theorem length_varintFrom (fuel v : Nat) : (varintFrom fuel v).length = encLenFrom fuel 1 v := by
  induction fuel generalizing v with
  | zero => rfl
  | succ fuel ih =>
    have hone : v < 2 ^ (7 * 1) ↔ ¬ 128 ≤ v := Nat.not_le.symm
    rw [varintFrom, encLenFrom]
    by_cases h : 128 ≤ v
    · rw [if_pos h, if_neg (hone.not_left.2 h), List.length_cons, ih, encLenFrom_succ fuel 1]
    · rw [if_neg h, if_pos (hone.2 h), List.length_singleton]

/-! ### The value -/

/-- The last byte of a varint carries its group unflagged. -/
theorem groupSum_terminator {v : Nat} (h : v < 128) : groupSum [BitVec.ofNat 8 v] = v := by
  simp only [groupSum, BitVec.toNat_ofNat]
  omega

theorem groupSum_continuation (v : Nat) (rest : List Byte) :
    groupSum (BitVec.ofNat 8 (128 + v % 128) :: rest) = v % 128 + 128 * groupSum rest := by
  simp only [groupSum, BitVec.toNat_ofNat]
  omega

theorem groupSum_varintFrom (fuel v : Nat) (h : v < 2 ^ (7 * (fuel + 1))) :
    groupSum (varintFrom fuel v) = v := by
  induction fuel generalizing v with
  | zero => exact groupSum_terminator h
  | succ fuel ih =>
    rw [varintFrom]
    split
    · rw [groupSum_continuation, ih _ ((lt_two_pow_groups_succ v _).1 h), Nat.mod_add_div]
    · exact groupSum_terminator (by omega)

/-- Ten groups hold 64 bits. -/
theorem word_lt_ten_groups (v : Word) : v.toNat < 2 ^ (7 * (9 + 1)) :=
  v.isLt.trans (by decide)

/-- Settles O6: the loop of R87 takes as many turns as the search of R86. -/
theorem referenceVarintIsShortestAndInvertible :
    Obligations.ReferenceVarintIsShortestAndInvertible := by
  intro v
  have hv : v.toNat < 2 ^ (7 * (9 + 1)) := word_lt_ten_groups v
  have hvalue : varintValue (varintEnc v) = v := by
    rw [varintValue, varintEnc, groupSum_varintFrom 9 _ hv, BitVec.ofNat_toNat, BitVec.setWidth_eq]
  exact ⟨length_varintFrom 9 _, hvalue, le_encLenFrom 9 1 _, encLenFrom_le 9 1 _,
    lt_two_pow_encLenFrom 9 1 hv, fun k hk hlt => encLenFrom_le_of_lt 9 1 hlt hk⟩

end Sys2Proof.Machine
end

section
/-! PROOFS. The host's command, and a word of the table, as the operation of the very next step
(O9, O12). -/

namespace Sys2Proof.Machine

/-- A presented command is what the step runs. -/
theorem step_command {s : State} {ev : HostEvent} {rest : List HostEvent}
    (hq : s.hostq = ev :: rest) (h : s.status ≠ .busy ∨ ev.whileBusy = true) :
    step s = exec (decodeCommand ev.cmd) { s with hostq := rest } :=
  step_of_nextOp (State.nextOp_command hq h)

/-- Settles O9: the sequencer looks at the host port first. -/
theorem stepRunsTheHostCommand : Obligations.StepRunsTheHostCommand :=
  fun _ _ _ _ hq h => step_command hq h

/-! ### Where the fixture places a word -/

/-- No command is in the way of the drive loop: the fixture drops those of a host that does not wait. -/
theorem State.nextOp_loop_of_dropWhile {s : State} {evs : List HostEvent} (hb : s.status = .busy)
    (hq : s.hostq = evs.dropWhile (fun ev => ev.whileBusy)) : s.nextOp = s.loopNext := by
  cases hd : s.hostq with
  | nil => simp [State.nextOp, hd, hb]
  | cons ev rest =>
    have hev : ev.whileBusy = false := by
      simpa [← hq, hd] using List.head?_dropWhile_not (fun ev : HostEvent => ev.whileBusy) evs
    simp [State.nextOp, hd, hb, hev]

theorem step_withCommand (s : State) (c : BitVec 1) :
    step (s.withCommand c) = exec (decodeCommand c) s :=
  step_command (ev := ⟨c, true⟩) rfl (.inr rfl)

theorem step_withResponse (s : State) (x : SrcResp) :
    step (s.withResponse x) =
      exec (decodeResponse s.room x) { s.withResponse x with srcq := s.srcq } :=
  step_of_nextOp (State.nextOp_loop_of_dropWhile rfl rfl)

/-- The placed byte stands in RBUF, unread, at the read position. -/
theorem State.withStreamByte_unread (s : State) (b : Byte) (hcap : 1 ≤ s.params.cap) :
    (s.withStreamByte b).r < (s.withStreamByte b).w ∧
      (s.withStreamByte b).readByte (s.withStreamByte b).r = .ok b := by
  have hr : (s.withStreamByte b).r < s.params.cap := by
    dsimp only [State.withStreamByte]
    split <;> omega
  refine ⟨lt_max_of_lt_right (Nat.lt_succ_self _), State.readByte_ok.2 ⟨hr, ?_⟩⟩
  exact (Memory.byteAt_put _ _ _ _ _).trans (if_pos rfl)

theorem step_withStreamByte (s : State) (b : Byte) (hcap : 1 ≤ s.params.cap) :
    step (s.withStreamByte b) = exec (decodeByte .awaitLen b) (s.withStreamByte b) := by
  obtain ⟨hrw, hread⟩ := s.withStreamByte_unread b hcap
  have htop : (s.withStreamByte b).loopTop = .ok (decodeByte .awaitLen b) := by
    rw [State.loopTop, if_neg (by simp [State.qNonempty, State.withStreamByte]), if_pos hrw, hread]
    rfl
  have hloop : (s.withStreamByte b).loopNext =
      .ok (some (decodeByte .awaitLen b, s.withStreamByte b)) := by
    rw [State.loopNext, htop]
    rfl
  exact step_of_nextOp ((State.nextOp_loop_of_dropWhile rfl rfl).trans hloop)

/-! ### The words of the table -/

/-- The table's words are a byte, a command, or a response without bytes. -/
theorem codeOfBits_cases {nbits w : Nat} {c : Code} (h : codeOfBits nbits w = .ok c) :
    (∃ b, c = .stream b) ∨ (∃ k, c = .command k) ∨ (∃ x, c = .response x ∧ x.data = []) := by
  unfold codeOfBits at h
  split at h
  · exact .inl ⟨_, (Except.ok.inj h).symm⟩
  · split at h
    · exact .inr (.inl ⟨_, (Except.ok.inj h).symm⟩)
    · split at h
      · exact .inr (.inr ⟨_, (Except.ok.inj h).symm, rfl⟩)
      · cases h

/-- A word that the table decoder reads has a format of the spec. -/
theorem decodeTableWord_eq_some {nbits w : Nat} {i : Instr} (h : decodeTableWord nbits w = some i) :
    ∃ c, codeOfBits nbits w = .ok c ∧ decode .awaitLen 0 c = i := by
  unfold decodeTableWord at h
  split at h
  · exact ⟨_, by assumption, Option.some.inj h⟩
  · cases h

/-- Settles O12, for each of the three inputs the word can stand on. -/
theorem fetchWordIsTheNextOperation : Obligations.FetchWordIsTheNextOperation := by
  intro s nbits w i hcap hword
  obtain ⟨c, hcode, rfl⟩ := decodeTableWord_eq_some hword
  have hplace : s.withFetchWord nbits w = s.withCode c := by rw [State.withFetchWord, hcode]
  rw [hplace]
  rcases codeOfBits_cases hcode with ⟨b, rfl⟩ | ⟨k, rfl⟩ | ⟨x, rfl, hdata⟩
  · exact ⟨_, step_withStreamByte s b hcap, rfl, rfl, rfl, rfl⟩
  · exact ⟨s, step_withCommand s k, rfl, rfl, rfl, rfl⟩
  · have hroom : decode .awaitLen 0 (.response x) = decodeResponse s.room x :=
      decodeResponse_of_no_data s.room hdata
    rw [hroom]
    exact ⟨_, step_withResponse s x, rfl, rfl, rfl, rfl⟩

end Sys2Proof.Machine
end

section
/-! PROOFS. The varint bytes and VRESET: what each writes, and that the parser registers alone
decide what it leaves in them (O13 to O16, O25). -/

namespace Sys2Proof.Machine

variable {s s' : State}

/-! ### What each byte writes -/

/-- The weight of the next group (R102). -/
theorem weigh_toNat (f : Word) : (f * 128).toNat = f.toNat * 128 % 2 ^ 64 := BitVec.toNat_mul f 128

/-- VB.C on a byte that is not the eleventh (R102). -/
theorem State.vbC_of_ne (h : s.cnt ≠ 10) (g : Group) :
    s.vbC g = { s with
      val := s.val + contribution g s.fac, fac := s.fac * 128, cnt := s.cnt + 1,
      r := s.index (s.r + 1) } :=
  ((s.vbC_cases g).resolve_left fun hten => h hten.1).2

/-- VB.C on the eleventh byte (R104). -/
theorem State.vbC_of_ten (h : s.cnt = 10) (g : Group) :
    s.vbC g = { s with
      val := s.val + contribution g s.fac, fac := s.fac * 128, cnt := s.cnt + 1,
      r := s.index (s.r + 1) }.raise .malformed none :=
  ((s.vbC_cases g).resolve_right fun hne => hne.1 h).2

/-- LEN.T on the last group of a value (R122). -/
theorem execLenT_of_value {g : Group} {v : Word} (h : s.val + contribution g s.fac = v) :
    execLenT g s = .next { s with
      val := 0, fac := 1, cnt := 0, r := s.index (s.r + 1), blen := v,
      phase := if v.toNat = 0 then .awaitLen else .awaitHeader } := by
  subst h
  simp only [← word_eq_zero_iff]
  rfl

/-- Settles O13: both operations are VB.C. -/
theorem continuationByteAccumulates : Obligations.ContinuationByteAccumulates := by
  intro s g hcnt
  have hne : s.cnt ≠ 10 := fun h => absurd (h ▸ hcnt) (by decide)
  have hacc := State.vbC_of_ne hne g
  exact ⟨_, _, _, accumulate_toNat _ _ g, weigh_toNat _, cnt_succ_toNat (by omega),
    congrArg Host.Outcome.next hacc, congrArg Host.Outcome.next hacc⟩

/-- Settles O14: both operations are VB.C, whose count reaches 11. -/
theorem eleventhContinuationByteIsMalformed : Obligations.EleventhContinuationByteIsMalformed := by
  intro s g hcnt
  have hten : s.cnt = 10 := BitVec.eq_of_toNat_eq hcnt
  have heleven : s.cnt + 1 = 11 := by rw [hten]; rfl
  have hraise := State.vbC_of_ten hten g
  rw [heleven] at hraise
  exact ⟨_, _, accumulate_toNat _ _ g, weigh_toNat _, congrArg Host.Outcome.next hraise, rfl⟩

/-- Settles O15, by the value of the length. -/
theorem lengthTerminatorSetsBodyLength : Obligations.LengthTerminatorSetsBodyLength := by
  refine fun s g => ⟨_, accumulate_toNat _ _ g, fun h => ?_, fun h => ?_⟩
  · exact execLenT_of_value ((word_eq_zero_iff _).2 h)
  · rw [exec, execLenT_of_value rfl, if_neg h]
    rfl

/-- Settles O25: it is what VRESET is defined to do. -/
theorem vresetClearsTheAccumulator : Obligations.VresetClearsTheAccumulator := fun _ => rfl

/-! ### What the bytes read (R110) -/

/-- The two states agree on what a varint byte reads: the parser registers and the maximum. -/
structure State.SameParser (s s' : State) : Prop where
  val : s.val = s'.val
  fac : s.fac = s'.fac
  cnt : s.cnt = s'.cnt
  blen : s.blen = s'.blen
  hdr : s.hdr = s'.hdr
  pmiss : s.pmiss = s'.pmiss
  pay : s.pay = s'.pay
  phase : s.phase = s'.phase
  maxMessageSize : s.params.maxMessageSize = s'.params.maxMessageSize

theorem State.SameParser.raise (h : s.SameParser s') (k : ErrKind) (e : Option ErrCode) :
    (s.raise k e).SameParser (s'.raise k e) := { h with }

theorem State.SameParser.vbT (h : s.SameParser s') (g : Group) : (s.vbT g).SameParser (s'.vbT g) :=
  { h with
    val := by simp [h.val, h.fac]
    cnt := by simp [h.cnt] }

theorem State.SameParser.vbC (h : s.SameParser s') (g : Group) :
    (s.vbC g).SameParser (s'.vbC g) := by
  have hbyte : State.SameParser { s.vbT g with fac := s.fac * 128 }
      { s'.vbT g with fac := s'.fac * 128 } := { h.vbT g with fac := by rw [h.fac] }
  by_cases hten : s.cnt = 10
  · rw [State.vbC_of_ten hten, State.vbC_of_ten (h.cnt ▸ hten)]
    exact hbyte.raise .malformed none
  · rw [State.vbC_of_ne hten, State.vbC_of_ne (h.cnt ▸ hten)]
    exact hbyte

theorem State.SameParser.emitIfComplete (h : s.SameParser s') :
    s.emitIfComplete.SameParser s'.emitIfComplete := by
  unfold State.emitIfComplete
  simp only [h.pmiss]
  split_ifs
  · exact { h with val := rfl, fac := rfl, cnt := rfl, blen := rfl, hdr := rfl, pmiss := rfl,
                   pay := rfl, phase := rfl }
  · exact h

/-- HDR.T behind its accumulation: the two tests of R124. -/
def headerTests (s : State) : Host.Outcome State Fault Refusal :=
  if s.blen < s.cnt.setWidth 64 then .next (s.raise .malformed none)
  else if s.params.maxMessageSize < (s.blen - s.cnt.setWidth 64).toNat then
    .next ({ s with blen := s.blen - s.cnt.setWidth 64 }.raise .oversize none)
  else .next (s.beginPayload (s.blen - s.cnt.setWidth 64)).emitIfComplete

theorem execHdrT_eq (g : Group) (s : State) :
    execHdrT g s = headerTests { s.vbT g with hdr := (s.vbT g).val } := rfl

/-- The two states answer next states that agree again. -/
def State.AnswerAlike (s s' : State) (f : State → Host.Outcome State Fault Refusal) : Prop :=
  ∃ t t', f s = .next t ∧ f s' = .next t' ∧ t.SameParser t'

theorem State.SameParser.headerTests (h : s.SameParser s') : s.AnswerAlike s' headerTests := by
  unfold State.AnswerAlike Machine.headerTests
  simp only [h.blen, h.cnt, h.maxMessageSize]
  split_ifs
  · exact ⟨_, _, rfl, rfl, h.raise .malformed none⟩
  · exact ⟨_, _, rfl, rfl, { h with cnt := rfl, blen := rfl }⟩
  · exact ⟨_, _, rfl, rfl, State.SameParser.emitIfComplete
      { h with val := rfl, fac := rfl, cnt := rfl, blen := rfl, pmiss := rfl, pay := rfl,
               phase := rfl }⟩

theorem State.SameParser.execLenT (h : s.SameParser s') (g : Group) :
    s.AnswerAlike s' (execLenT g) :=
  ⟨_, _, rfl, rfl, { h with val := rfl, fac := rfl, cnt := rfl, blen := (h.vbT g).val,
                            phase := by rw [(h.vbT g).val] }⟩

theorem State.SameParser.execHdrT (h : s.SameParser s') (g : Group) :
    s.AnswerAlike s' (execHdrT g) :=
  State.SameParser.headerTests { h.vbT g with hdr := (h.vbT g).val }

/-- Settles O16, for each of the four operations. -/
theorem varintBytesDependOnlyOnTheParserRegisters :
    Obligations.VarintBytesDependOnlyOnTheParserRegisters := by
  intro s s' g i hi hval hfac hcnt hblen hhdr hpmiss hpay hphase hmax
  have h : s.SameParser s' := ⟨hval, hfac, hcnt, hblen, hhdr, hpmiss, hpay, hphase, hmax⟩
  have halike : s.AnswerAlike s' (exec i) := by
    simp only [List.mem_cons, List.not_mem_nil, or_false] at hi
    rcases hi with rfl | rfl | rfl | rfl
    · exact ⟨_, _, rfl, rfl, h.vbC g⟩
    · exact h.execLenT g
    · exact ⟨_, _, rfl, rfl, h.vbC g⟩
    · exact h.execHdrT g
  obtain ⟨t, t', ht, ht', hsame⟩ := halike
  exact ⟨t, t', ht, ht', hsame.val, hsame.fac, hsame.cnt, hsame.blen, hsame.hdr, hsame.pmiss,
    hsame.pay, hsame.phase⟩

end Sys2Proof.Machine
end

section
/-! PROOFS. What a running READ_NEXT executes at each place of its loop, and the unread bytes as the
parser takes them. -/

namespace Sys2Proof.Machine

variable {s t u : State} {i : Instr}

/-! ### The places of the loop (R141, R170) -/

/-- The drive loop's operation is what the step runs, when no host barges in. -/
theorem step_of_loopNext {s' : State} (hb : s.status = .busy) (ho : s.Orderly)
    (h : s.loopNext = .ok (some (i, s'))) : step s = exec i s' :=
  step_of_nextOp ((State.nextOp_loop hb ho).trans h)

theorem step_of_loopTop (hb : s.status = .busy) (ho : s.Orderly) (hl : s.loc = .top)
    (h : s.loopTop = .ok i) : step s = exec i s :=
  step_of_loopNext hb ho (by simp [State.loopNext, hl, h])

/-- L1. -/
theorem step_deliver (hb : s.status = .busy) (ho : s.Orderly) (hl : s.loc = .top)
    (hq : s.msgq ≠ []) : step s = exec .deliver s :=
  step_of_loopTop hb ho hl (by simp [State.loopTop, State.qNonempty, hq])

/-- L4. -/
theorem step_stallchk (hb : s.status = .busy) (ho : s.Orderly) (hl : s.loc = .top)
    (hq : s.msgq = []) (hrw : s.w ≤ s.r) (he : s.errk = none) : step s = exec .stallchk s :=
  step_of_loopTop hb ho hl
    (by simp [State.loopTop, State.qNonempty, State.errPending, hq, hrw.not_gt, he])

/-- L5. -/
theorem step_capchk (hb : s.status = .busy) (ho : s.Orderly) (hl : s.loc = .capchk) :
    step s = exec .capchk s :=
  step_of_loopNext hb ho (by simp [State.loopNext, hl])

/-- L6. -/
theorem step_fill (hb : s.status = .busy) (ho : s.Orderly) (hl : s.loc = .fill) :
    step s = exec .fill s :=
  step_of_loopNext hb ho (by simp [State.loopNext, hl])

/-- The answer to an outstanding SrcRead (R171). -/
theorem step_answer {x : SrcResp} {rest : List SrcResp} (hb : s.status = .busy) (ho : s.Orderly)
    (hl : s.loc = .srcWait) (hx : s.srcq = x :: rest) :
    step s = exec (decodeResponse s.room x) { s with srcq := rest } :=
  step_of_loopNext hb ho (by simp [State.loopNext, hl, hx])

/-! ### The unread bytes (R51) -/

section
variable {b : Byte} {bytes : List Byte}

theorem State.Buffered.unread (h : s.Buffered (b :: bytes)) : s.r < s.w := by
  have hlen := h.1
  simp only [List.length_cons] at hlen
  omega

theorem State.Buffered.readByte (h : s.Buffered (b :: bytes)) : s.readByte s.r = .ok b := by
  have hunread := h.unread
  obtain ⟨_, hcap, hbytes⟩ := h
  exact State.readByte_ok.2 ⟨hunread.trans_le hcap, hbytes 0 (Nat.succ_pos _)⟩

/-- R advances over an unread byte, and no bit of it is lost (R26). -/
theorem State.Buffered.index_succ (h : s.Buffered (b :: bytes)) : s.index (s.r + 1) = s.r + 1 :=
  State.index_of_le (h.unread.trans_le h.2.1)

theorem State.Parsing.noMessage (h : s.Parsing) : s.msgq = [] := by
  obtain ⟨_, _, hq, _⟩ := h
  exact hq

/-- L2: the byte at the read position selects the operation (R145, R76). -/
theorem State.Parsing.step_buffered (h : s.Parsing) (hb : s.Buffered (b :: bytes)) :
    step s = exec (decodeByte s.phase b) s := by
  obtain ⟨hbusy, hl, hq, ho⟩ := h
  exact step_of_loopTop hbusy ho hl
    (by simp [State.loopTop, State.qNonempty, hq, hb.unread, hb.readByte])

end

/-! ### What the parser leaves alone -/

/-- From `s` to `t` a READ_NEXT runs on: nothing has come from the host, nothing gone to it. -/
structure State.RunsOn (s t : State) : Prop where
  params : t.params = s.params
  errk : t.errk = s.errk
  dead : t.dead = s.dead
  status : t.status = s.status
  loc : t.loc = s.loc
  hostq : t.hostq = s.hostq
  resps : t.resps = s.resps

/-- From `s` to `t` the parser has taken `k` unread bytes, and done nothing to RBUF or outside the
parser. -/
structure State.Takes (s t : State) (k : Nat) : Prop extends s.RunsOn t where
  r : t.r = s.r + k
  w : t.w = s.w
  rbuf : t.rbuf = s.rbuf
  resets : t.resets = s.resets
  srcq : t.srcq = s.srcq

theorem State.RunsOn.refl (s : State) : s.RunsOn s := ⟨rfl, rfl, rfl, rfl, rfl, rfl, rfl⟩

theorem State.Takes.refl (s : State) : s.Takes s 0 :=
  ⟨State.RunsOn.refl s, rfl, rfl, rfl, rfl, rfl⟩

theorem State.RunsOn.trans (h : s.RunsOn t) (h' : t.RunsOn u) : s.RunsOn u where
  params := h'.params.trans h.params
  errk := h'.errk.trans h.errk
  dead := h'.dead.trans h.dead
  status := h'.status.trans h.status
  loc := h'.loc.trans h.loc
  hostq := h'.hostq.trans h.hostq
  resps := h'.resps.trans h.resps

theorem State.RunsOn.orderly (h : s.RunsOn t) (ho : s.Orderly) : t.Orderly := by
  rwa [State.Orderly, h.hostq]

theorem State.Takes.trans {j k : Nat} (h : s.Takes t j) (h' : t.Takes u k) :
    s.Takes u (j + k) where
  toRunsOn := h.toRunsOn.trans h'.toRunsOn
  r := by rw [h'.r, h.r, Nat.add_assoc]
  w := h'.w.trans h.w
  rbuf := h'.rbuf.trans h.rbuf
  resets := h'.resets.trans h.resets
  srcq := h'.srcq.trans h.srcq

/-- Behind the first unread byte stand the others. -/
theorem State.Takes.buffered {b : Byte} {bytes : List Byte} (h : s.Takes t 1)
    (hb : s.Buffered (b :: bytes)) : t.Buffered bytes := by
  obtain ⟨hlen, hcap, hbytes⟩ := hb
  rw [List.length_cons] at hlen
  refine ⟨by rw [h.r, h.w]; omega, by rwa [h.w, h.params], fun k hk => ?_⟩
  have hnext := hbytes (k + 1) (Nat.succ_lt_succ hk)
  rwa [State.byteAt, h.rbuf, h.resets, h.r, Nat.add_assoc, Nat.add_comm 1 k]

end Sys2Proof.Machine
end

section
/-! PROOFS. A varint whose bytes have been taken up to some point, wherever the stream was cut
(R100), and the length varint at a frame boundary (O17). -/

namespace Sys2Proof.Machine

variable {s t : State} {v : Word} {q : List Byte}

/-! ### The bytes of a varint that are still to come -/

/-- `q` are the bytes of `VARINT(v)` still to come: they carry the number `n`, and VAL holds the
groups before them at their weights (R101, R108). -/
def State.VarintLeft (s : State) (v : Word) (q : List Byte) : Prop :=
  ∃ n, s.cnt.toNat ≤ 9 ∧ s.fac.toNat = 128 ^ s.cnt.toNat ∧
    s.val.toNat + 128 ^ s.cnt.toNat * n = v.toNat ∧ q = varintFrom (9 - s.cnt.toNat) n

/-- None of the bytes has been taken (R109). -/
theorem State.varintLeft_of_idle (hv : s.val = 0) (hf : s.fac = 1) (hc : s.cnt = 0) (v : Word) :
    s.VarintLeft v (varintEnc v) := by
  refine ⟨v.toNat, ?_⟩
  rw [hv, hf, hc]
  exact ⟨by decide, rfl, by simp, rfl⟩

theorem State.VarintLeft.of_same_accumulator (h : s.VarintLeft v q) (hv : t.val = s.val)
    (hf : t.fac = s.fac) (hc : t.cnt = s.cnt) : t.VarintLeft v q := by
  rwa [State.VarintLeft, hv, hf, hc]

theorem State.VarintLeft.cnt_le (h : s.VarintLeft v q) : s.cnt.toNat ≤ 9 := by
  obtain ⟨n, hcnt, _⟩ := h
  exact hcnt

theorem State.VarintLeft.cnt_ne_ten (h : s.VarintLeft v q) : s.cnt ≠ 10 := fun hten =>
  absurd (hten ▸ h.cnt_le) (by decide)

/-- The last byte of a varint: no flag, and the whole of the number as its group (R87). -/
theorem varintFrom_of_lt {n : Nat} (fuel : Nat) (h : n < 128) :
    ∃ b, varintFrom fuel n = [b] ∧ flagOf b = false ∧ (groupOf b).toNat = n := by
  have hb : (BitVec.ofNat 8 n : Byte).toNat = n := by
    rw [BitVec.toNat_ofNat]
    omega
  refine ⟨BitVec.ofNat 8 n, ?_, ?_, ?_⟩
  · cases fuel with
    | zero => rfl
    | succ fuel => rw [varintFrom, if_neg (by omega)]
  · rw [flagOf_eq_decide, hb]
    simpa using h
  · rw [groupOf_toNat, hb, Nat.mod_eq_of_lt h]

/-- A byte of a varint before its last: a flag, and the low group of the number (R87). -/
theorem varintFrom_succ_of_le {n : Nat} (fuel : Nat) (h : 128 ≤ n) :
    ∃ b, varintFrom (fuel + 1) n = b :: varintFrom fuel (n / 128) ∧ flagOf b = true ∧
      (groupOf b).toNat = n % 128 := by
  have hb : (BitVec.ofNat 8 (128 + n % 128) : Byte).toNat = 128 + n % 128 := by
    rw [BitVec.toNat_ofNat]
    omega
  refine ⟨BitVec.ofNat 8 (128 + n % 128), by rw [varintFrom, if_pos h], ?_, ?_⟩
  · rw [flagOf_eq_decide, hb]
    simp
  · rw [groupOf_toNat, hb]
    omega

/-- What a varint byte adds stays within the value, so nothing wraps. -/
theorem State.accumulate_of_le (g : Group) (h : s.val.toNat + g.toNat * s.fac.toNat ≤ v.toNat) :
    (s.val + contribution g s.fac).toNat = s.val.toNat + g.toNat * s.fac.toNat := by
  rw [accumulate_toNat]
  exact Nat.mod_eq_of_lt (h.trans_lt v.isLt)

/-- Up to the tenth byte, no weight loses a bit (R108). -/
theorem weigh_of_lt {f : Word} {k : Nat} (hf : f.toNat = 128 ^ k) (hk : k < 9) :
    (f * 128).toNat = 128 ^ (k + 1) := by
  rw [weigh_toNat, hf, ← Nat.pow_succ]
  exact Nat.mod_eq_of_lt ((Nat.pow_le_pow_right (by decide) hk).trans_lt (by decide))

/-- Taking the low group off a number at its weight changes no sum. -/
theorem add_group_weighed (val n k : Nat) :
    val + n % 128 * 128 ^ k + 128 ^ (k + 1) * (n / 128) = val + 128 ^ k * n := by
  rw [Nat.pow_succ, Nat.mul_assoc, Nat.add_assoc, Nat.mul_comm (n % 128), ← Nat.mul_add,
    Nat.mod_add_div]

/-- The next byte of a varint completes the value, or adds its group and leaves one byte less. -/
theorem State.VarintLeft.next_byte (h : s.VarintLeft v q) :
    (∃ b, q = [b] ∧ flagOf b = false ∧ s.val + contribution (groupOf b) s.fac = v) ∨
    (∃ b q', q = b :: q' ∧ flagOf b = true ∧ (s.vbC (groupOf b)).VarintLeft v q') := by
  have hne := h.cnt_ne_ten
  obtain ⟨n, hcnt, hfac, hval, rfl⟩ := h
  by_cases hn : n < 128
  · obtain ⟨b, hbytes, hflag, hgroup⟩ := varintFrom_of_lt (9 - s.cnt.toNat) hn
    have hsum : s.val.toNat + (groupOf b).toNat * s.fac.toNat = v.toNat := by
      rw [hgroup, hfac, Nat.mul_comm, hval]
    exact .inl ⟨b, hbytes, hflag,
      BitVec.eq_of_toNat_eq ((State.accumulate_of_le _ hsum.le).trans hsum)⟩
  · have hlt : s.cnt.toNat < 9 := by
      by_contra hlast
      have hnine : s.cnt.toNat = 9 := by omega
      have hv := v.isLt
      rw [hnine] at hval
      omega
    have hcnt' : (s.cnt + 1).toNat = s.cnt.toNat + 1 := cnt_succ_toNat (by omega)
    have hfuel : 9 - s.cnt.toNat = 9 - (s.cnt + 1).toNat + 1 := by omega
    obtain ⟨b, hbytes, hflag, hgroup⟩ :=
      varintFrom_succ_of_le (9 - (s.cnt + 1).toNat) (Nat.not_lt.1 hn)
    have hsum : s.val.toNat + (groupOf b).toNat * s.fac.toNat +
        128 ^ (s.cnt + 1).toNat * (n / 128) = v.toNat := by
      rw [hgroup, hfac, hcnt', add_group_weighed, hval]
    have hacc := State.accumulate_of_le (groupOf b) (Nat.le.intro hsum)
    refine .inr ⟨b, _, by rw [hfuel, hbytes], hflag, ?_⟩
    rw [State.vbC_of_ne hne]
    exact ⟨n / 128, hcnt'.trans_le hlt, (weigh_of_lt hfac hlt).trans (by rw [hcnt']),
      hacc ▸ hsum, rfl⟩

/-- VB.C inside a varint, with its byte unread (R102): the byte is taken, and nothing outside the
accumulator has changed. -/
theorem State.VarintLeft.takes_vbC (h : s.VarintLeft v q) {b : Byte} {bytes : List Byte}
    (hb : s.Buffered (b :: bytes)) (g : Group) : s.Takes (s.vbC g) 1 := by
  rw [State.vbC_of_ne h.cnt_ne_ten]
  exact ⟨⟨rfl, rfl, rfl, rfl, rfl, rfl, rfl⟩, hb.index_succ, rfl, rfl, rfl, rfl⟩

/-! ### The length varint (R109) -/

/-- The last byte of the length varint, unread (R122). -/
theorem State.Parsing.step_lenT (hp : s.Parsing) (hphase : s.phase = .awaitLen) {b : Byte}
    {bytes : List Byte} (hb : s.Buffered (b :: bytes)) (hflag : flagOf b = false)
    (hv : s.val + contribution (groupOf b) s.fac = v) :
    step s = .next { s with
      val := 0, fac := 1, cnt := 0, r := s.r + 1, blen := v,
      phase := if v.toNat = 0 then .awaitLen else .awaitHeader } := by
  have hdecode : decodeByte s.phase b = .lenT (groupOf b) := by simp [decodeByte, hphase, hflag]
  rw [hp.step_buffered hb, hdecode, exec, execLenT_of_value hv, hb.index_succ]

/-- Another byte of the length varint, unread (R121). -/
theorem State.Parsing.step_lenC (hp : s.Parsing) (hphase : s.phase = .awaitLen) {b : Byte}
    {bytes : List Byte} (hb : s.Buffered (b :: bytes)) (hflag : flagOf b = true) :
    step s = .next (s.vbC (groupOf b)) := by
  have hdecode : decodeByte s.phase b = .lenC (groupOf b) := by simp [decodeByte, hphase, hflag]
  rw [hp.step_buffered hb, hdecode]
  rfl

/-- The bytes still to come of a length varint, unread, are decoded in as many steps. -/
theorem State.VarintLeft.run_length (h : s.VarintLeft v q) (hp : s.Parsing)
    (hphase : s.phase = .awaitLen) (hb : s.Buffered q) :
    s.After q.length { s with
      val := 0, fac := 1, cnt := 0, r := s.r + q.length, blen := v,
      phase := if v.toNat = 0 then .awaitLen else .awaitHeader } := by
  induction q generalizing s with
  | nil => rcases h.next_byte with ⟨_, e, _⟩ | ⟨_, _, e, _⟩ <;> cases e
  | cons b bytes ih =>
    rcases h.next_byte with ⟨_, e, hflag, hv⟩ | ⟨_, _, e, hflag, hleft⟩ <;> cases e
    · exact State.after_one (hp.step_lenT hphase hb hflag hv)
    · have htakes := h.takes_vbC hb (groupOf b)
      have hvbC := State.vbC_of_ne h.cnt_ne_ten (groupOf b)
      have hp' : (s.vbC (groupOf b)).Parsing := by
        rw [hvbC]
        exact hp
      have hrun := ih hleft hp' (by rw [hvbC]; exact hphase) (htakes.buffered hb)
      refine (State.after_succ_iff (hp.step_lenC hphase hb hflag)).2 ?_
      rw [htakes.r, hvbC, Nat.add_assoc, Nat.add_comm 1] at hrun
      exact hvbC ▸ hrun

theorem State.accReset_of_idle (hv : s.val = 0) (hf : s.fac = 1) (hc : s.cnt = 0) :
    s.accReset = s := by
  cases s
  simp_all [State.accReset]

/-- Settles O17: the whole varint is still to come. -/
theorem lengthVarintRoundTrip : Obligations.LengthVarintRoundTrip := by
  intro s v hp hphase hv hf hc hb
  have hlen : (varintEnc v).length = encLen v := length_varintFrom 9 v.toNat
  have hrun := (State.varintLeft_of_idle hv hf hc v).run_length hp hphase hb
  rw [hlen] at hrun
  have hidle := State.accReset_of_idle hv hf hc
  exact hidle ▸ hrun

end Sys2Proof.Machine
end

section
/-! PROOFS. A frame that fits the buffer is delivered by one READ_NEXT, whatever the chunks it comes
in (O59): what is left of the frame is an invariant of the parser, which a fill does not touch. -/

namespace Sys2Proof.Machine

variable {s t : State} {m : Message} {q : List Byte}

/-! ### The header of a message (R73) -/

theorem headerOf_toNat (id : BitVec 60) (channel : BitVec 4) :
    (headerOf id channel).toNat = 16 * id.toNat + channel.toNat := by
  rw [headerOf, BitVec.toNat_append, ← Nat.shiftLeft_add_eq_or_of_lt channel.isLt,
    Nat.shiftLeft_eq, Nat.mul_comm]

/-- EMIT takes the header apart again (R126). -/
theorem State.message_of_header (hh : s.hdr = headerOf m.id m.channel) (hp : s.pay = m.data) :
    s.message = m := by
  have hch : m.channel.toNat < 16 := m.channel.isLt
  have hid : headerId s.hdr = m.id := BitVec.eq_of_toNat_eq (by
    rw [headerId_toNat, hh, headerOf_toNat]
    omega)
  have hchannel : headerChannel s.hdr = m.channel := BitVec.eq_of_toNat_eq (by
    rw [headerChannel_toNat, hh, headerOf_toNat]
    omega)
  rw [State.message, hid, hchannel, hp]

/-! ### What is left of a frame -/

/-- `q` is what is left of `MSG(m)` behind the bytes that the parser has taken: bytes of the length
varint and the body, of the header varint and the payload, of the payload, or nothing, with `m` in
the queue (R39, R74). -/
inductive State.FrameLeft (s : State) (m : Message) : List Byte → Prop
  | length {q : List Byte} (phase : s.phase = .awaitLen) (noMessage : s.msgq = [])
      (varint : s.VarintLeft (BitVec.ofNat 64 (bodyEnc m).length) q) :
      s.FrameLeft m (q ++ bodyEnc m)
  | header {q : List Byte} (phase : s.phase = .awaitHeader) (noMessage : s.msgq = [])
      (blen : s.blen.toNat = s.cnt.toNat + q.length + m.data.length)
      (varint : s.VarintLeft (headerOf m.id m.channel) q) : s.FrameLeft m (q ++ m.data)
  | payload {q : List Byte} (phase : s.phase = .awaitPayload) (noMessage : s.msgq = [])
      (hdr : s.hdr = headerOf m.id m.channel) (pay : s.pay ++ q = m.data)
      (pmiss : s.pmiss.toNat = q.length) (more : q ≠ []) : s.FrameLeft m q
  | queued (boundary : s.AtBoundary) (message : s.msgq = [m]) : s.FrameLeft m []

/-- At a frame boundary the whole frame is left. -/
theorem State.AtBoundary.frameLeft (h : s.AtBoundary) (hq : s.msgq = []) (m : Message) :
    s.FrameLeft m (msgEnc m) := by
  obtain ⟨hphase, hv, hf, hc, _⟩ := h
  exact .length hphase hq (State.varintLeft_of_idle hv hf hc _)

theorem State.FrameLeft.noMessage (h : s.FrameLeft m q) (hne : q ≠ []) : s.msgq = [] := by
  cases h with
  | length _ hq _ => exact hq
  | header _ hq _ _ => exact hq
  | payload _ hq _ _ _ _ => exact hq
  | queued _ _ => exact absurd rfl hne

/-- What is left depends on the parser registers and the queue alone. -/
theorem State.FrameLeft.of_sameParser (h : s.FrameLeft m q) (hs : s.SameParser t)
    (hq : t.msgq = s.msgq) : t.FrameLeft m q := by
  cases h with
  | length hphase hno hleft =>
    exact .length (hs.phase ▸ hphase) (hq.trans hno)
      (hleft.of_same_accumulator hs.val.symm hs.fac.symm hs.cnt.symm)
  | header hphase hno hblen hleft =>
    exact .header (hs.phase ▸ hphase) (hq.trans hno) (by rwa [← hs.blen, ← hs.cnt])
      (hleft.of_same_accumulator hs.val.symm hs.fac.symm hs.cnt.symm)
  | payload hphase hno hhdr hpay hpmiss hmore =>
    exact .payload (hs.phase ▸ hphase) (hq.trans hno) (hs.hdr ▸ hhdr) (by rwa [← hs.pay])
      (by rwa [← hs.pmiss]) hmore
  | queued hbound hmsg =>
    refine .queued ?_ (hq.trans hmsg)
    rwa [State.AtBoundary, ← hs.phase, ← hs.val, ← hs.fac, ← hs.cnt, ← hs.blen, ← hs.hdr,
      ← hs.pmiss, ← hs.pay]

/-- Where EMIT completes the payload, nothing is left. -/
theorem State.frameLeft_emitted (hq : s.msgq = []) (hh : s.hdr = headerOf m.id m.channel)
    (hp : s.pay = m.data) : s.emitted.FrameLeft m [] := by
  refine .queued ⟨rfl, rfl, rfl, rfl, rfl, rfl, rfl, rfl⟩ ?_
  rw [State.emitted_msgq, hq, State.message_of_header hh hp]
  rfl

theorem State.VarintLeft.ne_nil {v : Word} (h : s.VarintLeft v q) : q ≠ [] := by
  rcases h.next_byte with ⟨_, e, _⟩ | ⟨_, _, e, _⟩ <;> simp [e]

/-- Nothing is left: the message is queued, and the parser at a frame boundary. -/
theorem State.FrameLeft.complete (h : s.FrameLeft m q) (hnil : q = []) :
    s.AtBoundary ∧ s.msgq = [m] := by
  cases h with
  | length _ _ hleft => exact absurd (List.append_eq_nil_iff.1 hnil).1 hleft.ne_nil
  | header _ _ _ hleft => exact absurd (List.append_eq_nil_iff.1 hnil).1 hleft.ne_nil
  | payload _ _ _ _ _ hmore => exact absurd hnil hmore
  | queued hbound hmsg => exact ⟨hbound, hmsg⟩

/-- In AWAIT_PAYLOAD, what is left is the end of the payload, and PMISS counts it. -/
theorem State.FrameLeft.in_payload (h : s.FrameLeft m q) (hphase : s.phase = .awaitPayload) :
    s.hdr = headerOf m.id m.channel ∧ s.pay ++ q = m.data ∧ s.pmiss.toNat = q.length := by
  cases h with
  | length hp _ _ => simp [hp] at hphase
  | header hp _ _ _ => simp [hp] at hphase
  | payload _ _ hhdr hpay hpmiss _ => exact ⟨hhdr, hpay, hpmiss⟩
  | queued hbound _ => simp [hbound.1] at hphase

/-! ### The unread bytes are taken off what is left (R141 L2) -/

section
variable {b : Byte} {bytes : List Byte}

theorem length_bodyEnc (m : Message) :
    (bodyEnc m).length = (varintEnc (headerOf m.id m.channel)).length + m.data.length :=
  List.length_append

/-- A byte of the length varint. -/
theorem State.VarintLeft.step_length {q₁ : List Byte}
    (hleft : s.VarintLeft (BitVec.ofNat 64 (bodyEnc m).length) q₁) (hp : s.Parsing)
    (hphase : s.phase = .awaitLen) (hb : s.Buffered (b :: bytes))
    (hfits : (bodyEnc m).length < 2 ^ 64) (hq : q₁ ++ bodyEnc m = b :: q) :
    ∃ t, step s = .next t ∧ s.Takes t 1 ∧ t.FrameLeft m q := by
  rcases hleft.next_byte with ⟨c, rfl, hflag, hv⟩ | ⟨c, q₂, rfl, hflag, hleft'⟩
  · obtain ⟨rfl, rfl⟩ := List.cons.inj hq
    have hv64 : (BitVec.ofNat 64 (bodyEnc m).length : Word).toNat = (bodyEnc m).length := by
      rw [BitVec.toNat_ofNat, Nat.mod_eq_of_lt hfits]
    have hlen := length_bodyEnc m
    have hpos := List.length_pos_iff.2
      (State.varintLeft_of_idle (s := s.accReset) rfl rfl rfl (headerOf m.id m.channel)).ne_nil
    refine ⟨_, hp.step_lenT hphase hb hflag hv,
      ⟨⟨rfl, rfl, rfl, rfl, rfl, rfl, rfl⟩, rfl, rfl, rfl, rfl, rfl⟩, ?_⟩
    have hsum : (bodyEnc m).length = (0 : BitVec 4).toNat +
        (varintEnc (headerOf m.id m.channel)).length + m.data.length := by simpa using hlen
    exact .header (if_neg (by omega)) hp.noMessage (hv64.trans hsum)
      (State.varintLeft_of_idle rfl rfl rfl _)
  · obtain ⟨rfl, rfl⟩ := List.cons.inj hq
    refine ⟨_, hp.step_lenC hphase hb hflag, hleft.takes_vbC hb _, ?_⟩
    have hvbC := State.vbC_of_ne hleft.cnt_ne_ten (groupOf c)
    exact .length (by rw [hvbC]; exact hphase) (by rw [hvbC]; exact hp.noMessage) hleft'

/-- HDR.T on the last group of the header: the payload begins, or the empty one is emitted
(R124). -/
theorem execHdrT_frameLeft {g : Group} (hno : s.msgq = []) (hcnt : s.cnt.toNat ≤ 9)
    (hv : s.val + contribution g s.fac = headerOf m.id m.channel)
    (hblen : s.blen.toNat = s.cnt.toNat + 1 + m.data.length)
    (hmax : m.data.length ≤ s.params.maxMessageSize) (hr : s.index (s.r + 1) = s.r + 1) :
    ∃ t, execHdrT g s = .next t ∧ s.Takes t 1 ∧ t.FrameLeft m m.data := by
  rcases execHdrT_cases g s (by omega) with
    ⟨_, e⟩ | ⟨_, len, hlen, ⟨_, e⟩ | ⟨_, hzero, e⟩ | ⟨_, hpos, e⟩⟩
  · omega
  · omega
  · have hnil : m.data = [] := by
      rw [(word_eq_zero_iff len).1 hzero] at hlen
      exact List.eq_nil_of_length_eq_zero (by omega)
    refine ⟨_, e, ⟨⟨rfl, rfl, rfl, rfl, rfl, rfl, rfl⟩, hr, rfl, rfl, rfl, rfl⟩, ?_⟩
    rw [hnil]
    exact State.frameLeft_emitted hno hv hnil.symm
  · have hdata : len.toNat = m.data.length := by omega
    refine ⟨_, e, ⟨⟨rfl, rfl, rfl, rfl, rfl, rfl, rfl⟩, hr, rfl, rfl, rfl, rfl⟩, ?_⟩
    refine .payload rfl hno hv (List.nil_append _) hdata fun hnil => hpos ?_
    exact (word_eq_zero_iff len).2 (by rw [hdata, hnil]; rfl)

/-- A byte of the header varint. -/
theorem State.VarintLeft.step_header {q₁ : List Byte}
    (hleft : s.VarintLeft (headerOf m.id m.channel) q₁) (hp : s.Parsing)
    (hphase : s.phase = .awaitHeader) (hb : s.Buffered (b :: bytes))
    (hblen : s.blen.toNat = s.cnt.toNat + q₁.length + m.data.length)
    (hmax : m.data.length ≤ s.params.maxMessageSize) (hq : q₁ ++ m.data = b :: q) :
    ∃ t, step s = .next t ∧ s.Takes t 1 ∧ t.FrameLeft m q := by
  rw [hp.step_buffered hb, hphase]
  rcases hleft.next_byte with ⟨c, rfl, hflag, hv⟩ | ⟨c, q₂, rfl, hflag, hleft'⟩
  · obtain ⟨rfl, rfl⟩ := List.cons.inj hq
    have hdecode : decodeByte .awaitHeader c = .hdrT (groupOf c) := by simp [decodeByte, hflag]
    rw [hdecode]
    exact execHdrT_frameLeft hp.noMessage hleft.cnt_le hv hblen hmax hb.index_succ
  · obtain ⟨rfl, rfl⟩ := List.cons.inj hq
    have hdecode : decodeByte .awaitHeader c = .hdrC (groupOf c) := by simp [decodeByte, hflag]
    rw [hdecode]
    refine ⟨_, rfl, hleft.takes_vbC hb _, ?_⟩
    have hvbC := State.vbC_of_ne hleft.cnt_ne_ten (groupOf c)
    have hcnt : (s.cnt + 1).toNat = s.cnt.toNat + 1 :=
      cnt_succ_toNat (hleft.cnt_le.trans (by decide))
    refine .header (by rw [hvbC]; exact hphase) (by rw [hvbC]; exact hp.noMessage) ?_ hleft'
    rw [hvbC]
    simp only [hcnt, hblen, List.length_cons]
    omega

/-- A burst as long as the unread bytes `b :: bytes` copies them. -/
theorem State.Buffered.burst_eq (h : s.Buffered (b :: bytes))
    (hk : s.burstLen = (b :: bytes).length) : s.burst b = .ok (b :: bytes) := by
  obtain ⟨hlen, hcap, hbytes⟩ := h
  refine State.burst_ok hk.symm (by omega) fun k hlt => ?_
  have hnext := hbytes (k + 1) (Nat.succ_lt_succ hlt)
  rwa [← Nat.add_assoc, Nat.add_right_comm] at hnext

/-- The registers behind that burst (R125). -/
theorem State.Buffered.tookBurst_eq (h : s.Buffered (b :: bytes))
    (hk : s.burstLen = (b :: bytes).length) :
    s.tookBurst (b :: bytes) = { s with
      pay := s.pay ++ b :: bytes, r := s.r + (b :: bytes).length,
      pmiss := s.pmiss - BitVec.ofNat 64 s.burstLen } := by
  have hr : s.index (s.r + s.burstLen) = s.r + (b :: bytes).length := by
    rw [hk]
    exact State.index_of_le (h.1.trans h.2.1)
  rw [State.tookBurst, hr]

/-- All the unread bytes are of the payload, and one burst takes them (R125). -/
theorem State.FrameLeft.step_payload (h : s.FrameLeft m (b :: bytes ++ q)) (hp : s.Parsing)
    (hphase : s.phase = .awaitPayload) (hb : s.Buffered (b :: bytes))
    (hw : s.w = s.r + (b :: bytes).length) :
    ∃ t, step s = .next t ∧ s.Takes t (b :: bytes).length ∧ t.FrameLeft m q := by
  obtain ⟨hhdr, hpay, hpmiss⟩ := h.in_payload hphase
  rw [List.length_append] at hpmiss
  have hk : s.burstLen = (b :: bytes).length := by unfold State.burstLen; omega
  have hleft : (s.pmiss - BitVec.ofNat 64 s.burstLen).toNat = q.length := by
    rw [State.pmiss_after_burst]
    omega
  have hpay' : s.pay ++ b :: bytes ++ q = m.data := by rw [List.append_assoc, hpay]
  have hstep : step s = .next (s.tookBurst (b :: bytes)).emitIfComplete := by
    rw [hp.step_buffered hb, hphase]
    exact execPayB_of_burst (hb.burst_eq hk)
  rw [hb.tookBurst_eq hk] at hstep
  refine ⟨_, hstep, ?_⟩
  rcases State.emitIfComplete_cases { s with
    pay := s.pay ++ b :: bytes, r := s.r + (b :: bytes).length,
    pmiss := s.pmiss - BitVec.ofNat 64 s.burstLen } with ⟨hzero, e⟩ | ⟨hmore, e⟩ <;> rw [e]
  · have hnil : q = [] := List.eq_nil_of_length_eq_zero
      (hleft.symm.trans ((word_eq_zero_iff _).1 hzero))
    subst hnil
    exact ⟨⟨⟨rfl, rfl, rfl, rfl, rfl, rfl, rfl⟩, rfl, rfl, rfl, rfl, rfl⟩,
      State.frameLeft_emitted hp.noMessage hhdr ((List.append_nil _).symm.trans hpay')⟩
  · have hne : q ≠ [] := fun hnil => hmore ((word_eq_zero_iff _).2 (by rw [hleft, hnil]; rfl))
    exact ⟨⟨⟨rfl, rfl, rfl, rfl, rfl, rfl, rfl⟩, rfl, rfl, rfl, rfl, rfl⟩,
      .payload hphase hp.noMessage hhdr hpay' hleft hne⟩

/-- One step takes one varint byte, or the whole of the unread payload, off what is left. -/
theorem State.FrameLeft.step_buffered (h : s.FrameLeft m (b :: bytes ++ q)) (hp : s.Parsing)
    (hb : s.Buffered (b :: bytes)) (hw : s.w = s.r + (b :: bytes).length)
    (hmax : m.data.length ≤ s.params.maxMessageSize) (hfits : (bodyEnc m).length < 2 ^ 64) :
    (∃ t, step s = .next t ∧ s.Takes t 1 ∧ t.FrameLeft m (bytes ++ q)) ∨
    (∃ t, step s = .next t ∧ s.Takes t (b :: bytes).length ∧ t.FrameLeft m q) := by
  by_cases hphase : s.phase = .awaitPayload
  · exact .inr (h.step_payload hp hphase hb hw)
  · refine .inl ?_
    generalize hl : b :: bytes ++ q = l at h
    cases h with
    | length hlen _ hleft => exact hleft.step_length hp hlen hb hfits hl.symm
    | header hhdr _ hblen hleft => exact hleft.step_header hp hhdr hb hblen hmax hl.symm
    | payload hpay _ _ _ _ _ => exact absurd hpay hphase
    | queued _ _ => cases hl

end

/-- The loop of R141 takes every unread byte off what is left, and stands at its top again. -/
theorem State.FrameLeft.drain {bytes : List Byte} (h : s.FrameLeft m (bytes ++ q))
    (hb : s.status = .busy) (hl : s.loc = .top) (ho : s.Orderly) (hbuf : s.Buffered bytes)
    (hw : s.w = s.r + bytes.length) (hmax : m.data.length ≤ s.params.maxMessageSize)
    (hfits : (bodyEnc m).length < 2 ^ 64) :
    ∃ k t, s.After k t ∧ s.Takes t bytes.length ∧ t.FrameLeft m q := by
  induction bytes generalizing s with
  | nil => exact ⟨0, s, s.after_zero, State.Takes.refl s, h⟩
  | cons b bytes ih =>
    have hp : s.Parsing := ⟨hb, hl, h.noMessage (List.cons_ne_nil _ _), ho⟩
    rcases h.step_buffered hp hbuf hw hmax hfits with
      ⟨t, ht, htakes, hleft⟩ | ⟨t, ht, htakes, hleft⟩
    · have hw' : t.w = t.r + bytes.length := by
        rw [htakes.w, htakes.r, hw, List.length_cons]
        omega
      obtain ⟨k, u, hu, hutakes, huleft⟩ := ih hleft (htakes.status.trans hb) (htakes.loc.trans hl)
        (htakes.orderly ho) (htakes.buffered hbuf) hw' (by rwa [htakes.params])
      refine ⟨k + 1, u, (State.after_succ_iff ht).2 hu, ?_, huleft⟩
      rw [List.length_cons, Nat.add_comm]
      exact htakes.trans hutakes
    · exact ⟨1, t, State.after_one ht, htakes, hleft⟩

/-! ### A fill (R141 L4 to L6, R170) -/

/-- CAPCHK passes where the rest of a payload in progress fits behind W (R148). -/
theorem execCapchk_of_fits
    (h : s.phase = .awaitPayload → s.w + s.pmiss.toNat ≤ s.params.cap) :
    execCapchk s = .next { s with loc := .fill } := by
  rcases execCapchk_cases s with ⟨hphase, hbig, _⟩ | ⟨_, _, e⟩
  · exact absurd (h hphase) hbig.not_ge
  · exact e

/-- A running READ_NEXT at the top of its loop, every byte taken and no error in the slot. -/
structure State.Drained (s : State) : Prop where
  busy : s.status = .busy
  top : s.loc = .top
  orderly : s.Orderly
  noError : s.errk = none
  legal : s.params.Legal
  empty : s.r = s.w
  inside : s.w ≤ s.params.cap

/-- From `s` to `t` a fill has brought `data`: they are the unread bytes, and the parser, the queue
and the rest of the command are as before. -/
structure State.Refills (s t : State) (data : List Byte) : Prop extends s.RunsOn t where
  parser : s.SameParser t
  msgq : t.msgq = s.msgq
  r : t.r = 0
  w : t.w = data.length
  buffered : t.Buffered data

/-- L4 and L5 pass. -/
theorem State.Drained.run_to_fill (h : s.Drained) (hq : s.msgq = [])
    (hroom : s.phase = .awaitPayload → s.w + s.pmiss.toNat ≤ s.params.cap) :
    s.After 2 { s with loc := .fill } := by
  refine (State.after_succ_iff
    (step_stallchk h.busy h.orderly h.top hq h.empty.ge h.noError)).2 (State.after_one ?_)
  rw [step_capchk (by exact h.busy) (by exact h.orderly) rfl]
  exact execCapchk_of_fits hroom

/-- FILL with every byte taken empties the buffer and asks the source (R170). -/
theorem execFill_of_drained (hp : s.params.Legal) (hrw : s.r = s.w) (hw : s.w ≤ s.params.cap) :
    execFill s = .next { s with
      rbuf := s.rebased.rbuf, r := 0, w := 0, empties := 0, loc := .srcWait } := by
  obtain ⟨hcap, hreads, _⟩ := hp
  have hw0 : s.rebased.w = 0 := by
    rw [State.rebased_w (hw.trans_lt (cap_lt_two_pow_idxw s.params)), hrw, Nat.sub_self]
  rcases execFill_cases s with ⟨hfull, _⟩ | ⟨_, _, e⟩ | ⟨_, hnone, _⟩
  · omega
  · rw [e, State.rebased_eq, hw0]
  · omega

/-- L6 leads to an outstanding SrcRead that offers the whole buffer. -/
theorem State.Drained.run_to_read (h : s.Drained) (hq : s.msgq = [])
    (hroom : s.phase = .awaitPayload → s.w + s.pmiss.toNat ≤ s.params.cap) :
    ∃ mem : Memory, s.After 3 { s with
      rbuf := mem, r := 0, w := 0, empties := 0, loc := .srcWait } := by
  refine ⟨State.rebased { s with loc := .fill } |>.rbuf,
    State.after_trans (h.run_to_fill hq hroom) (State.after_one ?_)⟩
  rw [step_fill (by exact h.busy) (by exact h.orderly) rfl]
  exact execFill_of_drained h.legal h.empty h.inside

/-- An answer with bytes that fit is stored, and FILL returns (R173). -/
theorem State.answered_data {data : List Byte} (hdata : data ≠ [])
    (hfit : s.w + data.length ≤ s.params.cap) :
    s.answered ⟨data, 0, 0⟩ = { s with
      rbuf := Memory.write s.rbuf s.w data, w := s.w + data.length, loc := .top } := by
  have hinside : ¬ ((0 : BitVec 2) = 3 ∨ s.params.cap < s.w + data.length) := by
    rintro (h | h)
    · exact absurd h (by decide)
    · omega
  have hpos : 0 < data.length := List.length_pos_iff.2 hdata
  rw [State.answered_inside hinside, State.receive_eq hfit]
  simp [State.turned, SrcResp.n, hpos, State.fillReturn]

/-- The answer with bytes that fit, to an outstanding SrcRead. -/
theorem step_data {data : List Byte} {rest : List SrcResp} (hb : s.status = .busy)
    (ho : s.Orderly) (hl : s.loc = .srcWait) (hsrc : s.srcq = ⟨data, 0, 0⟩ :: rest)
    (hdata : data ≠ []) (hfit : s.w + data.length ≤ s.params.cap) :
    step s = .next { s with
      rbuf := Memory.write s.rbuf s.w data, w := s.w + data.length, loc := .top,
      srcq := rest } := by
  have hexec := exec_decodeResponse { s with srcq := rest } ⟨data, 0, 0⟩
    ((Nat.le_add_right _ _).trans hfit)
  have hstore := State.answered_data (s := { s with srcq := rest }) hdata hfit
  rw [step_answer hb ho hl hsrc]
  exact hexec.trans (congrArg Host.Outcome.next hstore)

/-- A turn of the loop with everything taken, answered with bytes that fit. -/
theorem State.Drained.fill_turn {data : List Byte} {rest : List SrcResp} (h : s.Drained)
    (hq : s.msgq = []) (hroom : s.phase = .awaitPayload → s.w + s.pmiss.toNat ≤ s.params.cap)
    (hdata : data ≠ []) (hfit : data.length ≤ s.params.cap)
    (hsrc : s.srcq = ⟨data, 0, 0⟩ :: rest) :
    ∃ t, s.After 4 t ∧ s.Refills t data ∧ t.srcq = rest := by
  obtain ⟨mem, hread⟩ := h.run_to_read hq hroom
  have hzero : 0 + data.length = data.length := Nat.zero_add _
  refine ⟨_, State.after_trans hread (State.after_one (step_data (by exact h.busy)
    (by exact h.orderly) rfl hsrc hdata (hzero.trans_le hfit))), ?_, rfl⟩
  exact
    { params := rfl, errk := rfl, dead := rfl, status := rfl, loc := h.top.symm, hostq := rfl
      resps := rfl, parser := ⟨rfl, rfl, rfl, rfl, rfl, rfl, rfl, rfl, rfl⟩, msgq := rfl, r := rfl
      w := hzero
      buffered := ⟨Nat.le_refl _, hzero.trans_le hfit, fun k hk =>
        Memory.byteAt_write_inside mem s.resets 0 k data hk⟩ }

/-! ### The chunks, one fill each (R100, R156) -/

/-- A chunk that fits, with the rest of what is left: it is stored, and all of it taken. -/
theorem State.FrameLeft.receive_chunk {chunk : List Byte} {rest : List SrcResp}
    (h : s.FrameLeft m (chunk ++ q)) (hd : s.Drained)
    (hfit : s.w + (chunk ++ q).length ≤ s.params.cap)
    (hmax : m.data.length ≤ s.params.maxMessageSize) (hfits : (bodyEnc m).length < 2 ^ 64)
    (hne : chunk ≠ []) (hsrc : s.srcq = ⟨chunk, 0, 0⟩ :: rest) :
    ∃ k t, s.After k t ∧ s.RunsOn t ∧ t.Drained ∧ t.FrameLeft m q ∧ t.w = chunk.length ∧
      t.srcq = rest := by
  have hq : s.msgq = [] := h.noMessage (by simp [hne])
  have hroom : s.phase = .awaitPayload → s.w + s.pmiss.toNat ≤ s.params.cap := fun hphase => by
    rwa [(h.in_payload hphase).2.2]
  rw [List.length_append] at hfit
  have hcap : chunk.length ≤ s.params.cap := by omega
  obtain ⟨t, hfill, hrefills, htsrc⟩ := hd.fill_turn hq hroom hne hcap hsrc
  have hlegal : t.params.Legal := by rw [hrefills.params]; exact hd.legal
  obtain ⟨j, u, hdrain, htakes, hleft⟩ :=
    (h.of_sameParser hrefills.parser hrefills.msgq).drain (hrefills.status.trans hd.busy)
      (hrefills.loc.trans hd.top) (hrefills.orderly hd.orderly) hrefills.buffered
      (by rw [hrefills.w, hrefills.r, Nat.zero_add]) (by rwa [hrefills.params]) hfits
  have hruns : s.RunsOn u := hrefills.toRunsOn.trans htakes.toRunsOn
  have huw : u.w = chunk.length := htakes.w.trans hrefills.w
  have hur : u.r = u.w := by rw [htakes.r, hrefills.r, huw, Nat.zero_add]
  exact ⟨4 + j, u, State.after_trans hfill hdrain, hruns,
    { busy := hruns.status.trans hd.busy
      top := hruns.loc.trans hd.top
      orderly := hruns.orderly hd.orderly
      noError := hruns.errk.trans hd.noError
      legal := hruns.params ▸ hd.legal
      empty := hur
      inside := by rwa [huw, hruns.params] },
    hleft, huw, htakes.srcq.trans htsrc⟩

/-- Chunks that make up what is left of a frame, and fit behind W, end with its message queued: the
loop takes all of one before it asks for the next. -/
theorem State.FrameLeft.receive_chunks {chunks : List (List Byte)} {rest : List SrcResp}
    (h : s.FrameLeft m chunks.flatten) (hd : s.Drained)
    (hfit : s.w + chunks.flatten.length ≤ s.params.cap)
    (hmax : m.data.length ≤ s.params.maxMessageSize) (hfits : (bodyEnc m).length < 2 ^ 64)
    (hne : ∀ chunk ∈ chunks, chunk ≠ [])
    (hsrc : s.srcq = chunks.map (fun chunk => ⟨chunk, 0, 0⟩) ++ rest) :
    ∃ k t, s.After k t ∧ s.RunsOn t ∧ t.Drained ∧ t.FrameLeft m [] ∧ t.srcq = rest := by
  induction chunks generalizing s with
  | nil => exact ⟨0, s, s.after_zero, State.RunsOn.refl s, hd, h, hsrc⟩
  | cons chunk chunks ih =>
    obtain ⟨hchunk, hrest⟩ := List.forall_mem_cons.1 hne
    rw [List.flatten_cons] at h hfit
    obtain ⟨j, t, hfirst, hruns, htd, hleft, htw, htsrc⟩ :=
      h.receive_chunk hd hfit hmax hfits hchunk hsrc
    rw [List.length_append] at hfit
    have htfit : t.w + chunks.flatten.length ≤ t.params.cap := by
      rw [htw, hruns.params]
      omega
    obtain ⟨k, u, hothers, huruns, hud, huleft, husrc⟩ :=
      ih hleft htd htfit (by rwa [hruns.params]) hrest htsrc
    exact ⟨j + k, u, State.after_trans hfirst hothers, hruns.trans huruns, hud, huleft, husrc⟩

/-! ### The command (R140, R143) -/

/-- READ_NEXT on a live block that is IDLE starts the loop. -/
theorem step_readNext {early : Bool} {hs : List HostEvent} (hi : s.status = .idle)
    (hd : s.dead = false) (hq : s.hostq = ⟨0, early⟩ :: hs) :
    step s = .next { s with hostq := hs, status := .busy, loc := .top } := by
  rw [step_command hq (.inl (by simp [hi]))]
  simp [decodeCommand, exec, execReadNext, hi, hd]

/-- DELIVER with every byte taken leaves an empty buffer. -/
theorem State.Drained.step_deliver (h : s.Drained) (hq : s.msgq = [m]) :
    step s = .next ({ s with msgq := [] }.compacted.respond (.message m)) := by
  rw [Machine.step_deliver h.busy h.orderly h.top (by simp [hq]), exec, execDeliver, hq]

/-- Settles O59: READ_NEXT, the chunks, and DELIVER. -/
theorem frameIsDeliveredWhateverTheChunking :
    Obligations.FrameIsDeliveredWhateverTheChunking := by
  intro s m early hs chunks rest hp hi hl hd he hq hbound hr hw hhost horderly hne hflat hfit hmax
    hfits hsrc
  have hstart := step_readNext hi hd hhost
  have hdrained : State.Drained { s with hostq := hs, status := .busy, loc := .top } :=
    ⟨rfl, rfl, horderly, he, hp, hr.trans hw.symm, hw.trans_le (Nat.zero_le _)⟩
  have hleft : State.FrameLeft { s with hostq := hs, status := .busy, loc := .top } m
      chunks.flatten := by
    rw [hflat]
    exact (hbound.frameLeft hq m).of_sameParser ⟨rfl, rfl, rfl, rfl, rfl, rfl, rfl, rfl, rfl⟩ rfl
  have hroom : s.w + chunks.flatten.length ≤ s.params.cap := by rwa [hw, Nat.zero_add, hflat]
  obtain ⟨k, t, hrun, hruns, htd, htleft, htsrc⟩ :=
    hleft.receive_chunks hdrained hroom hmax hfits hne hsrc
  obtain ⟨htbound, htq⟩ := htleft.complete rfl
  have hw0 : t.index (t.w - t.r) = 0 := by
    rw [htd.empty, Nat.sub_self, State.index, Nat.zero_mod]
  refine ⟨k + 1 + 1, _, (State.after_succ_iff hstart).2
    (State.after_trans hrun (State.after_one (htd.step_deliver htq))), ?_⟩
  exact ⟨congrArg (· ++ [Response.message m]) hruns.resps, rfl, hruns.dead.trans hd,
    hruns.errk.trans he, rfl, htbound, rfl, hw0, hruns.hostq, htsrc⟩

end Sys2Proof.Machine
end

section
/-! PROOFS. What HDR.T, PAY.B and EMIT write, each way out by its condition (O18 to O24). -/

namespace Sys2Proof.Machine

variable {s : State}

/-! ### The payload (R125, R126) -/

section
variable {b : Byte} {bytes : List Byte}

/-- A burst of unread bytes that leaves some of the payload missing copies them. -/
theorem State.Buffered.execPayB_short (h : s.Buffered (b :: bytes))
    (hk : s.burstLen = (b :: bytes).length) (hmore : s.burstLen < s.pmiss.toNat) :
    execPayB b s = .next { s with
      pay := s.pay ++ b :: bytes, r := s.r + (b :: bytes).length,
      pmiss := s.pmiss - BitVec.ofNat 64 s.burstLen } := by
  have hleft := s.pmiss_after_burst
  have hne : s.pmiss - BitVec.ofNat 64 s.burstLen ≠ 0 := fun h0 => by
    have hzero := (word_eq_zero_iff _).1 h0
    omega
  rw [execPayB_of_burst (h.burst_eq hk), h.tookBurst_eq hk]
  exact congrArg Host.Outcome.next (if_neg hne)

/-- A burst of all the bytes that are missing copies them, and ends in EMIT. -/
theorem State.Buffered.execPayB_last (h : s.Buffered (b :: bytes))
    (hlast : s.pmiss.toNat = (b :: bytes).length) :
    execPayB b s = .next { s with
      pay := s.pay ++ b :: bytes, r := s.r + (b :: bytes).length }.emitted := by
  have hlen := h.1
  have hk : s.burstLen = (b :: bytes).length := by unfold State.burstLen; omega
  have hleft := s.pmiss_after_burst
  have hzero : s.pmiss - BitVec.ofNat 64 s.burstLen = 0 := (word_eq_zero_iff _).2 (by omega)
  rw [execPayB_of_burst (h.burst_eq hk), h.tookBurst_eq hk]
  exact congrArg Host.Outcome.next (if_pos hzero)

end

/-- Settles O24: the fields of the header, and EMIT as it is defined. -/
theorem emitQueuesTheMessage : Obligations.EmitQueuesTheMessage :=
  fun s => ⟨s.message, headerId_toNat s.hdr, headerChannel_toNat s.hdr, rfl, rfl⟩

/-- Settles O22: the burst takes every unread byte, and some are still missing. -/
theorem payloadBurstCopiesTheBufferedBytes : Obligations.PayloadBurstCopiesTheBufferedBytes := by
  intro s d rest h hk hmore
  have hburst : s.burstLen = (d :: rest).length := hk.symm
  exact ⟨_, hburst ▸ s.pmiss_after_burst, h.execPayB_short hburst (hburst ▸ hmore)⟩

/-- Settles O23: the burst takes all that is missing, and EMIT the whole of PAY. -/
theorem lastPayloadBurstEmitsTheMessage : Obligations.LastPayloadBurstEmitsTheMessage :=
  fun s _ _ h hlast => ⟨_, headerId_toNat s.hdr, headerChannel_toNat s.hdr, rfl,
    h.execPayB_last hlast⟩

/-! ### The header terminator (R124), by its ways out -/

/-- Settles O20: the test before the subtraction fails. -/
theorem headerLongerThanBodyIsMalformed : Obligations.HeaderLongerThanBodyIsMalformed := by
  intro s g hcnt hshort
  rcases execHdrT_cases g s (by omega) with ⟨_, e⟩ | ⟨hfits, _⟩
  · exact ⟨_, _, accumulate_toNat _ _ g, cnt_succ_toNat (by omega), e⟩
  · omega

/-- Settles O21: the difference is above the maximum. -/
theorem payloadAboveTheMaximumIsOversize : Obligations.PayloadAboveTheMaximumIsOversize := by
  intro s g hcnt hfits habove
  rcases execHdrT_cases g s (by omega) with
    ⟨_, _⟩ | ⟨_, len, hlen, ⟨_, e⟩ | ⟨hmax, _, _⟩ | ⟨hmax, _, _⟩⟩
  · omega
  · exact ⟨_, len, _, accumulate_toNat _ _ g, hlen, cnt_succ_toNat (by omega), e⟩
  · omega
  · omega

/-- Settles O18: the difference is within the maximum, and not 0. -/
theorem headerTerminatorBeginsThePayload : Obligations.HeaderTerminatorBeginsThePayload := by
  intro s g hcnt hbody hmax
  rcases execHdrT_cases g s (by omega) with
    ⟨_, _⟩ | ⟨_, len, hlen, ⟨habove, _⟩ | ⟨_, hzero, _⟩ | ⟨_, _, e⟩⟩
  · omega
  · omega
  · rw [(word_eq_zero_iff len).1 hzero] at hlen
    omega
  · exact ⟨_, len, accumulate_toNat _ _ g, hlen, e⟩

/-- Settles O19: the difference is 0, and EMIT finds an empty payload. -/
theorem headerTerminatorEmitsAnEmptyMessage :
    Obligations.HeaderTerminatorEmitsAnEmptyMessage := by
  intro s g hcnt hbody
  have hsum := accumulate_toNat s.val s.fac g
  rcases execHdrT_cases g s (by omega) with
    ⟨_, _⟩ | ⟨_, len, hlen, ⟨habove, _⟩ | ⟨_, _, e⟩ | ⟨_, hpos, _⟩⟩
  · omega
  · omega
  · have hchannel := (congrArg (· % 16) hsum).trans (Nat.mod_mod_of_dvd _ (by decide))
    exact ⟨_, (headerId_toNat _).trans (congrArg (· / 16) hsum),
      (headerChannel_toNat _).trans hchannel, rfl, e⟩
  · exact absurd ((word_eq_zero_iff len).2 (by omega)) hpos

end Sys2Proof.Machine
end

section
/-! PROOFS. The moves of PHASE in a step (O52): the operations that a byte selects, and RESET. -/

namespace Sys2Proof.Machine

variable {s t : State}

/-! ### The operations that keep PHASE -/

@[simp] theorem State.vbC_phase (s : State) (g : Group) : (s.vbC g).phase = s.phase := by
  rcases s.vbC_cases g with ⟨_, e⟩ | ⟨_, e⟩ <;> simp [e]

@[simp] theorem State.rebased_phase (s : State) : s.rebased.phase = s.phase := by
  rw [State.rebased_eq]

@[simp] theorem State.answered_phase (s : State) (x : SrcResp) :
    (s.answered x).phase = s.phase := by
  rcases s.answered_cases x with ⟨_, e⟩ | ⟨_, ⟨_, e⟩ | ⟨_, e⟩ | ⟨_, _, e⟩ | ⟨_, _, _, e⟩ |
    ⟨_, _, _, e⟩⟩ <;> rw [e] <;> rfl

theorem execDeliver_phase (h : execDeliver s = .next t) : t.phase = s.phase := by
  unfold execDeliver at h
  split at h
  · cases h
  · cases h
    rfl

theorem execSurface_phase (h : execSurface s = .next t) : t.phase = s.phase := by
  unfold execSurface at h
  split at h
  · cases h
  · cases h
    rfl

theorem execCapchk_phase (h : execCapchk s = .next t) : t.phase = s.phase := by
  rcases execCapchk_cases s with ⟨_, _, _, e⟩ | ⟨_, _, e⟩ <;> cases e.symm.trans h <;> rfl

theorem execFill_phase (h : execFill s = .next t) : t.phase = s.phase := by
  rcases execFill_cases s with ⟨_, e⟩ | ⟨_, _, e⟩ | ⟨_, _, e⟩ <;> cases e.symm.trans h <;>
    exact s.rebased_phase

theorem execReadNext_phase (h : execReadNext s = .next t) : t.phase = s.phase := by
  rcases execReadNext_cases s with e | e | e <;> cases e.symm.trans h <;> rfl

/-! ### The operations that move it -/

/-- The transition table of R127: the moves of PHASE from `s` to `t` by `i`, and RESET's. -/
inductive State.PhaseMove (s : State) (i : Instr) (t : State) : Prop
  | lenT (g : Group) (op : i = .lenT g) (source : s.phase = .awaitLen)
      (target : t.phase = .awaitHeader) (blen : t.blen ≠ 0)
  | hdrT (g : Group) (op : i = .hdrT g) (source : s.phase = .awaitHeader)
      (target : t.phase = .awaitPayload) (pos : 1 ≤ t.pmiss.toNat)
      (max : t.pmiss.toNat ≤ s.params.maxMessageSize)
  | hdrTEmit (g : Group) (op : i = .hdrT g) (source : s.phase = .awaitHeader)
      (target : t.phase = .awaitLen) (blen : s.blen.toNat = s.cnt.toNat + 1)
      (message : t.msgq.length = 1)
  | payBEmit (d : Byte) (op : i = .payB d) (source : s.phase = .awaitPayload)
      (target : t.phase = .awaitLen) (buffered : s.pmiss.toNat ≤ s.w - s.r)
      (message : t.msgq.length = 1)
  | reset (op : i = .reset) (target : t.phase = .awaitLen)

theorem execLenT_phase {g : Group} (hphase : s.phase = .awaitLen)
    (ht : execLenT g s = .next t) (hmoved : t.phase ≠ s.phase) : s.PhaseMove (.lenT g) t := by
  cases ht
  by_cases hv : (s.vbT g).val = 0
  · exact absurd ((if_pos hv).trans hphase.symm) hmoved
  · exact .lenT g rfl hphase (if_neg hv) hv

theorem State.Decoding.execHdrT_phase (h : s.Decoding) {g : Group} (hphase : s.phase = .awaitHeader)
    (ht : execHdrT g s = .next t) (hmoved : t.phase ≠ s.phase) : s.PhaseMove (.hdrT g) t := by
  have hcnt := h.acc.1
  rcases execHdrT_cases g s (by omega) with
    ⟨_, e⟩ | ⟨hfits, len, hlen, ⟨_, e⟩ | ⟨_, hzero, e⟩ | ⟨hmax, hpos, e⟩⟩ <;> cases e.symm.trans ht
  · exact absurd rfl hmoved
  · exact absurd rfl hmoved
  · rw [(word_eq_zero_iff len).1 hzero] at hlen
    exact .hdrTEmit g rfl hphase rfl (by omega) (by simp [h.noMessage])
  · exact .hdrT g rfl hphase rfl (Nat.one_le_iff_ne_zero.2 (mt (word_eq_zero_iff len).2 hpos)) hmax

theorem State.Decoding.execPayB_phase (h : s.Decoding) {d : Byte} (hphase : s.phase = .awaitPayload)
    (ht : execPayB d s = .next t) (hmoved : t.phase ≠ s.phase) : s.PhaseMove (.payB d) t := by
  rcases execPayB_cases d s with ⟨_, _, e⟩ | ⟨_, _, _, _, _, ⟨hall, e⟩ | ⟨_, e⟩⟩ <;>
    cases e.symm.trans ht
  · exact .payBEmit d rfl hphase rfl (hall.ge.trans s.burstLen_le.2) (by simp [h.noMessage])
  · exact absurd rfl hmoved

/-- Whichever operation PHASE and bit 7 select (R76). -/
theorem State.Decoding.exec_decodeByte_phase (h : s.Decoding) {b : Byte}
    (ht : exec (decodeByte s.phase b) s = .next t) (hmoved : t.phase ≠ s.phase) :
    s.PhaseMove (decodeByte s.phase b) t := by
  rcases decodeByte_cases s.phase b with ⟨hp, g, e | e⟩ | ⟨hp, g, e | e⟩ | ⟨hp, e⟩ <;>
    rw [e] at ht ⊢
  · cases ht
    exact absurd (s.vbC_phase g) hmoved
  · exact execLenT_phase hp ht hmoved
  · cases ht
    exact absurd (s.vbC_phase g) hmoved
  · exact h.execHdrT_phase hp ht hmoved
  · exact h.execPayB_phase hp ht hmoved

/-! ### The step (O52) -/

theorem exec_decodeCommand_phase {c : BitVec 1} (ht : exec (decodeCommand c) s = .next t)
    (hmoved : t.phase ≠ s.phase) : decodeCommand c = .reset ∧ t.phase = .awaitLen := by
  unfold decodeCommand at ht ⊢
  split at ht
  · exact absurd (execReadNext_phase ht) hmoved
  · rename_i hc
    rcases execReset_cases s with e | e <;> cases e.symm.trans ht
    · exact ⟨if_neg hc, rfl⟩
    · exact absurd rfl hmoved

/-- Of what the drive loop issues (R141), the operations of L2 alone move PHASE. -/
theorem State.Inv.exec_loopNext_phase {s' : State} {i : Instr} (h : s.Inv) (hb : s.status = .busy)
    (hl : s.loopNext = .ok (some (i, s'))) (ht : exec i s' = .next t)
    (hmoved : t.phase ≠ s.phase) : s.PhaseMove i t := by
  rcases State.loopNext_cases hl with ⟨htop, rfl, hop⟩ | ⟨_, rfl, rfl⟩ | ⟨_, rfl, rfl⟩ |
    ⟨_, x, rest, _, rfl, rfl⟩
  · rcases hop with ⟨_, rfl⟩ | ⟨hq, hrw, b, _, rfl⟩ | ⟨_, _, _, rfl⟩ | ⟨_, _, _, rfl⟩
    · exact absurd (execDeliver_phase ht) hmoved
    · exact State.Decoding.exec_decodeByte_phase ⟨h, hb, htop, hq, hrw⟩ ht hmoved
    · exact absurd (execSurface_phase ht) hmoved
    · cases ht
      exact absurd rfl hmoved
  · exact absurd (execCapchk_phase ht) hmoved
  · exact absurd (execFill_phase ht) hmoved
  · have e := exec_decodeResponse { s with srcq := rest } x h.index.2
    cases e.symm.trans ht
    exact absurd (State.answered_phase _ x) hmoved

/-- Every move of PHASE in a step is one of the table's. -/
theorem State.Inv.phaseMove {s' : State} {i : Instr} (h : s.Inv)
    (hn : s.nextOp = .ok (some (i, s'))) (ht : step s = .next t) (hmoved : t.phase ≠ s.phase) :
    s.PhaseMove i t := by
  rw [step_of_nextOp hn] at ht
  rcases State.nextOp_cases hn with ⟨ev, rest, _, _, rfl, rfl⟩ | ⟨hb, hl⟩
  · obtain ⟨hop, htarget⟩ := exec_decodeCommand_phase ht hmoved
    exact .reset hop htarget
  · exact h.exec_loopNext_phase hb hl ht hmoved

/-- Settles O52, move by move. -/
theorem phaseMovesOnlyAtFrameUnits : Obligations.PhaseMovesOnlyAtFrameUnits := by
  intro s s' t i h hn ht hmoved
  cases h.phaseMove hn ht hmoved with
  | lenT g hop hs htarget hblen => exact .inl ⟨hs, htarget, ⟨g, hop⟩, hblen⟩
  | hdrT g hop hs htarget hpos hmax => exact .inr (.inl ⟨hs, htarget, ⟨g, hop⟩, hpos, hmax⟩)
  | hdrTEmit g hop hs htarget hblen hmsg =>
    exact .inr (.inr (.inl ⟨hs, htarget, ⟨g, hop⟩, hblen, hmsg⟩))
  | payBEmit d hop hs htarget hall hmsg =>
    exact .inr (.inr (.inr (.inl ⟨hs, htarget, ⟨d, hop⟩, hall, hmsg⟩)))
  | reset hop htarget => exact .inr (.inr (.inr (.inr ⟨hop, htarget⟩)))

end Sys2Proof.Machine
end

section
/-! PROOFS. The bytes of a frame, unread at a frame boundary, become its message (O58): the length
varint, the header varint, and the payload in one burst. -/

namespace Sys2Proof.Machine

variable {s : State} {v len : Word} {m : Message}

/-! ### Unread bytes one part after the other (R51) -/

section
variable {xs ys : List Byte}

theorem State.Buffered.append_left (h : s.Buffered (xs ++ ys)) : s.Buffered xs := by
  obtain ⟨hlen, hcap, hbytes⟩ := h
  rw [List.length_append] at hlen
  refine ⟨by omega, hcap, fun k hk => ?_⟩
  rw [hbytes k (by rw [List.length_append]; omega), List.getElem_append_left hk]

theorem State.Buffered.append_right (h : s.Buffered (xs ++ ys)) :
    { s with r := s.r + xs.length }.Buffered ys := by
  obtain ⟨hlen, hcap, hbytes⟩ := h
  rw [List.length_append] at hlen
  refine ⟨(Nat.add_assoc _ _ _).trans_le hlen, hcap, fun k hk => ?_⟩
  have hnext := hbytes (xs.length + k) (by rw [List.length_append]; omega)
  simp only [List.getElem_append_right (Nat.le_add_right _ _), Nat.add_sub_cancel_left,
    ← Nat.add_assoc] at hnext
  exact hnext

end

/-! ### The bytes before the payload -/

/-- The two varints of `MSG(m)`: of the body's length, and of the header (R74, R88). -/
def headEnc (m : Message) : List Byte :=
  varintEnc (BitVec.ofNat 64 (bodyEnc m).length) ++ varintEnc (headerOf m.id m.channel)

theorem msgEnc_eq (m : Message) : msgEnc m = headEnc m ++ m.data := by
  rw [msgEnc, headEnc, List.append_assoc]
  rfl

theorem length_varintEnc_le (v : Word) : (varintEnc v).length ≤ 10 :=
  (length_varintFrom 9 v.toNat).trans_le (encLenFrom_le 9 1 v.toNat)

theorem varintEnc_ne_nil (v : Word) : varintEnc v ≠ [] :=
  (State.varintLeft_of_idle (s := State.reset) rfl rfl rfl v).ne_nil

theorem length_headEnc_le (m : Message) : (headEnc m).length ≤ 20 :=
  List.length_append.trans_le (Nat.add_le_add (length_varintEnc_le _) (length_varintEnc_le _))

/-- HDR.T on the last group of a header, with a payload of legal length to come (R124). -/
theorem execHdrT_of_legal {g : Group} (hcnt : s.cnt.toNat ≤ 9)
    (hv : s.val + contribution g s.fac = v) (hblen : s.blen.toNat = s.cnt.toNat + 1 + len.toNat)
    (hmax : len.toNat ≤ s.params.maxMessageSize) :
    execHdrT g s = .next
      ({ s with r := s.index (s.r + 1), hdr := v }.beginPayload len).emitIfComplete := by
  subst hv
  rcases execHdrT_cases g s (by omega) with ⟨_, _⟩ | ⟨_, len', hlen, hway⟩
  · omega
  · obtain rfl : len' = len := BitVec.eq_of_toNat_eq (by omega)
    rcases hway with ⟨_, _⟩ | ⟨_, hzero, e⟩ | ⟨_, hpos, e⟩
    · omega
    · exact e.trans (congrArg Host.Outcome.next (if_pos hzero).symm)
    · exact e.trans (congrArg Host.Outcome.next (if_neg hpos).symm)

/-- The bytes still to come of a header varint, unread, are decoded in as many steps. -/
theorem State.VarintLeft.run_header {q : List Byte} (h : s.VarintLeft v q) (hp : s.Parsing)
    (hphase : s.phase = .awaitHeader) (hb : s.Buffered q)
    (hblen : s.blen.toNat = s.cnt.toNat + q.length + len.toNat)
    (hmax : len.toNat ≤ s.params.maxMessageSize) :
    s.After q.length
      ({ s with r := s.r + q.length, hdr := v }.beginPayload len).emitIfComplete := by
  induction q generalizing s with
  | nil => exact absurd rfl h.ne_nil
  | cons b bytes ih =>
    have hstep := hp.step_buffered hb
    rcases h.next_byte with ⟨_, e, hflag, hv⟩ | ⟨_, _, e, hflag, hleft⟩ <;> cases e
    · have hdecode : decodeByte s.phase b = .hdrT (groupOf b) := by
        simp [decodeByte, hphase, hflag]
      rw [hdecode, exec, execHdrT_of_legal h.cnt_le hv hblen hmax, hb.index_succ] at hstep
      exact State.after_one hstep
    · have hdecode : decodeByte s.phase b = .hdrC (groupOf b) := by
        simp [decodeByte, hphase, hflag]
      rw [hdecode] at hstep
      have hbuf := (h.takes_vbC hb (groupOf b)).buffered hb
      have hcnt : (s.cnt + 1).toNat = s.cnt.toNat + 1 :=
        cnt_succ_toNat (h.cnt_le.trans (by decide))
      have hblen' : s.blen.toNat = (s.cnt + 1).toNat + bytes.length + len.toNat := by
        rw [hblen, hcnt, List.length_cons]
        omega
      refine (State.after_succ_iff hstep).2 ?_
      rw [State.vbC_of_ne h.cnt_ne_ten, hb.index_succ] at hleft hbuf ⊢
      have hrun := ih hleft hp hphase hbuf hblen' hmax
      simp only [Nat.add_assoc, Nat.add_comm 1] at hrun
      exact hrun

/-- The two varints, unread at a frame boundary, are decoded in as many steps as they have bytes. -/
theorem State.AtBoundary.run_head (h : s.AtBoundary) (hp : s.Parsing) (hb : s.Buffered (headEnc m))
    (hlen : len.toNat = m.data.length) (hmax : m.data.length ≤ s.params.maxMessageSize)
    (hfits : (bodyEnc m).length < 2 ^ 64) :
    s.After (headEnc m).length ({ s with
      r := s.r + (headEnc m).length, hdr := headerOf m.id m.channel }.beginPayload
        len).emitIfComplete := by
  obtain ⟨hphase, hv, hf, hc, _⟩ := h
  have hpos := List.length_pos_iff.2 (varintEnc_ne_nil (headerOf m.id m.channel))
  have hbody := length_bodyEnc m
  have hblen : (BitVec.ofNat 64 (bodyEnc m).length : Word).toNat = (bodyEnc m).length := by
    rw [BitVec.toNat_ofNat, Nat.mod_eq_of_lt hfits]
  have hsum : (bodyEnc m).length = (0 : BitVec 4).toNat +
      (varintEnc (headerOf m.id m.channel)).length + len.toNat := by simp [hbody, hlen]
  have hlength := (State.varintLeft_of_idle hv hf hc _).run_length hp hphase hb.append_left
  rw [if_neg (by omega)] at hlength
  have hheader := (State.varintLeft_of_idle rfl rfl rfl _).run_header (s := { s with
      val := 0, fac := 1, cnt := 0, phase := .awaitHeader,
      r := s.r + (varintEnc (BitVec.ofNat 64 (bodyEnc m).length)).length,
      blen := BitVec.ofNat 64 (bodyEnc m).length })
    hp rfl hb.append_right (hblen.trans hsum) (hlen.trans_le hmax)
  rw [headEnc, List.length_append, ← Nat.add_assoc]
  exact State.after_trans hlength hheader

/-! ### The payload (R125) -/

/-- The payload, unread behind the header, is taken by one burst, or, empty, by HDR.T. -/
theorem State.Parsing.run_payload {data : List Byte} (hp : s.Parsing) (hb : s.Buffered data)
    (hlen : len.toNat = data.length) :
    ∃ k ≤ 1, (s.beginPayload len).emitIfComplete.After k
      { s with pay := data, r := s.r + data.length }.emitted := by
  cases data with
  | nil => exact ⟨0, by decide, State.after_zero_iff.2 (if_pos ((word_eq_zero_iff len).2 hlen))⟩
  | cons d rest =>
    have hmore : len ≠ 0 := fun hzero => by
      rw [(word_eq_zero_iff len).1 hzero] at hlen
      cases hlen
    have hbegun : (s.beginPayload len).emitIfComplete = s.beginPayload len := if_neg hmore
    have hp' : (s.beginPayload len).Parsing := hp
    have hb' : (s.beginPayload len).Buffered (d :: rest) := hb
    rw [hbegun]
    exact ⟨1, le_rfl, State.after_one ((hp'.step_buffered hb').trans (hb'.execPayB_last hlen))⟩

/-! ### The frame (R131) -/

/-- EMIT returns every parser register to where it stood at the frame boundary (R39). -/
theorem State.AtBoundary.emitted_eq (h : s.AtBoundary) (hq : s.msgq = []) (r : Nat) :
    { s with r := r, hdr := headerOf m.id m.channel, pay := m.data }.emitted =
      { s with r := r, msgq := [m] } := by
  have hm : State.message { s with r := r, hdr := headerOf m.id m.channel, pay := m.data } = m :=
    State.message_of_header rfl rfl
  obtain ⟨hphase, hv, hf, hc, hblen, hhdr, hpmiss, hpay⟩ := h
  cases s
  simp_all [State.emitted, State.accReset]

/-- Settles O58: at most ten steps for each varint, and one for the payload. -/
theorem frameRoundTrip : Obligations.FrameRoundTrip := by
  intro s m hp hbound hb hmax hfits
  rw [msgEnc_eq] at hb ⊢
  have hlen : (BitVec.ofNat 64 m.data.length : Word).toNat = m.data.length := by
    have hbody := length_bodyEnc m
    rw [BitVec.toNat_ofNat, Nat.mod_eq_of_lt (by omega)]
  have hhead := hbound.run_head hp hb.append_left hlen hmax hfits
  obtain ⟨k, hk, hpayload⟩ := State.Parsing.run_payload (s := { s with
    r := s.r + (headEnc m).length, hdr := headerOf m.id m.channel }) hp hb.append_right hlen
  have hcount := length_headEnc_le m
  refine ⟨(headEnc m).length + k, by omega, ?_⟩
  rw [List.length_append, ← Nat.add_assoc, ← hbound.emitted_eq hp.noMessage]
  exact State.after_trans hhead hpayload

end Sys2Proof.Machine
end

section
/-! PROOFS. A READ_NEXT with a finite source ends or comes to wait for an answer (O60): every step
takes an answer, or brings the loop nearer to its next SrcRead. -/

namespace Sys2Proof.Machine

variable {s t : State}

/-! ### How far the loop is from its next SrcRead -/

/-- A bound on the operations that a running READ_NEXT executes before it reads the source (R141): one
for each unread byte, then STALLCHK, CAPCHK and FILL. -/
def State.opsToRead (s : State) : Nat :=
  match s.loc with
  | .top => s.w - s.r + 3
  | .capchk => 2
  | .fill => 1
  | .srcWait => 0

theorem State.opsToRead_top (h : s.loc = .top) : s.opsToRead = s.w - s.r + 3 := by
  rw [State.opsToRead, h]

theorem State.opsToRead_capchk (h : s.loc = .capchk) : s.opsToRead = 2 := by
  rw [State.opsToRead, h]

theorem State.opsToRead_fill (h : s.loc = .fill) : s.opsToRead = 1 := by
  rw [State.opsToRead, h]

theorem State.opsToRead_srcWait (h : s.loc = .srcWait) : s.opsToRead = 0 := by
  rw [State.opsToRead, h]

/-- From `s` to `t` an answer of the source is taken, or the next SrcRead has come nearer; the host has
presented nothing. -/
structure State.Advances (s t : State) : Prop where
  hostq : t.hostq = s.hostq
  nearer : t.srcq.length < s.srcq.length ∨ (t.srcq = s.srcq ∧ t.opsToRead < s.opsToRead)

/-! ### The operations of the stream bytes (L2) -/

/-- R moves over one or more unread bytes. -/
theorem State.Decoding.advances (h : s.Decoding) {k : Nat} (hk : 1 ≤ k) (hkw : s.r + k ≤ s.w)
    (hr : t.r = s.index (s.r + k)) (hw : t.w = s.w) (hl : t.loc = s.loc)
    (hhost : t.hostq = s.hostq) (hsrc : t.srcq = s.srcq) : s.Advances t := by
  refine ⟨hhost, .inr ⟨hsrc, ?_⟩⟩
  rw [State.opsToRead_top h.top, State.opsToRead_top (hl.trans h.top), hw, hr, h.index_add hkw]
  omega

theorem State.Decoding.vbC_advances (h : s.Decoding) (g : Group) :
    (s.vbC g).status ≠ .busy ∨ s.Advances (s.vbC g) := by
  rcases s.vbC_cases g with ⟨_, e⟩ | ⟨_, e⟩ <;> rw [e]
  · exact .inl nofun
  · exact .inr (h.advances le_rfl h.unread rfl rfl rfl rfl rfl)

theorem State.Decoding.execHdrT_advances (h : s.Decoding) {g : Group}
    (ht : execHdrT g s = .next t) : t.status ≠ .busy ∨ s.Advances t := by
  rcases execHdrT_ways g s with e | ⟨len, e | e⟩ <;> cases e.symm.trans ht
  · exact .inl nofun
  · exact .inl nofun
  · refine .inr ?_
    rcases State.emitIfComplete_cases
      ({ s.vbT g with hdr := (s.vbT g).val }.beginPayload len) with ⟨_, e⟩ | ⟨_, e⟩ <;> rw [e] <;>
      exact h.advances le_rfl h.unread rfl rfl rfl rfl rfl

/-- In AWAIT_PAYLOAD some of the payload is missing, so a burst copies a byte at least (R28, R125). -/
theorem State.Decoding.one_le_burstLen (h : s.Decoding) (hphase : s.phase = .awaitPayload) :
    1 ≤ s.burstLen := by
  obtain ⟨_, hmissing, _⟩ := (State.frameInv_awaitPayload hphase).1 h.frame
  have hunread := h.unread
  unfold State.burstLen
  omega

theorem State.Decoding.execPayB_advances (h : s.Decoding) (hphase : s.phase = .awaitPayload)
    {d : Byte} (ht : execPayB d s = .next t) : s.Advances t := by
  have hk := h.one_le_burstLen hphase
  have hkw : s.r + s.burstLen ≤ s.w := by
    have hlen := s.burstLen_le.2
    omega
  rcases execPayB_cases d s with ⟨_, _, e⟩ | ⟨_, _, _, _, _, ⟨_, e⟩ | ⟨_, e⟩⟩ <;>
    cases e.symm.trans ht <;> exact h.advances hk hkw rfl rfl rfl rfl rfl

/-- Whichever operation PHASE and bit 7 select (R76). -/
theorem State.Decoding.exec_decodeByte_advances (h : s.Decoding) {b : Byte}
    (ht : exec (decodeByte s.phase b) s = .next t) : t.status ≠ .busy ∨ s.Advances t := by
  rcases decodeByte_cases s.phase b with ⟨_, g, e | e⟩ | ⟨_, g, e | e⟩ | ⟨hp, e⟩ <;> rw [e] at ht
  · cases ht
    exact h.vbC_advances g
  · cases ht
    exact .inr (h.advances le_rfl h.unread rfl rfl rfl rfl rfl)
  · cases ht
    exact h.vbC_advances g
  · exact h.execHdrT_advances ht
  · exact .inr (h.execPayB_advances hp ht)

/-! ### The other places of the loop -/

theorem execDeliver_stops (ht : execDeliver s = .next t) : t.status = .idle := by
  unfold execDeliver at ht
  split at ht <;> cases ht
  rfl

theorem execSurface_stops (ht : execSurface s = .next t) : t.status = .idle := by
  unfold execSurface at ht
  split at ht <;> cases ht
  rfl

/-- L4 passes on to L5. -/
theorem execStallchk_advances (hl : s.loc = .top) (ht : execStallchk s = .next t) :
    s.Advances t := by
  cases ht
  refine ⟨rfl, .inr ⟨rfl, ?_⟩⟩
  rw [State.opsToRead_top hl, State.opsToRead_capchk rfl]
  omega

/-- L5 raises, or passes on to L6. -/
theorem execCapchk_advances (hl : s.loc = .capchk) (ht : execCapchk s = .next t) :
    t.status ≠ .busy ∨ s.Advances t := by
  rcases execCapchk_cases s with ⟨_, _, _, e⟩ | ⟨_, _, e⟩ <;> cases e.symm.trans ht
  · exact .inl nofun
  · refine .inr ⟨rfl, .inr ⟨rfl, ?_⟩⟩
    rw [State.opsToRead_capchk hl, State.opsToRead_fill rfl]
    decide

/-- L6 panics, or reads: legal parameters allow at least one read (R6). -/
theorem execFill_advances (hp : s.params.Legal) (hl : s.loc = .fill)
    (ht : execFill s = .next t) : t.status ≠ .busy ∨ s.Advances t := by
  obtain ⟨_, hreads, _⟩ := hp
  rcases execFill_cases s with ⟨_, e⟩ | ⟨_, _, e⟩ | ⟨_, hnone, _⟩
  · cases e.symm.trans ht
    exact .inl nofun
  · rw [State.rebased_eq] at e
    cases e.symm.trans ht
    refine .inr ⟨rfl, .inr ⟨rfl, ?_⟩⟩
    rw [State.opsToRead_fill hl, State.opsToRead_srcWait rfl]
    decide
  · omega

theorem State.answered_ports (s : State) (x : SrcResp) :
    (s.answered x).hostq = s.hostq ∧ (s.answered x).srcq = s.srcq := by
  rcases s.answered_cases x with ⟨_, e⟩ | ⟨_, ⟨_, e⟩ | ⟨_, e⟩ | ⟨_, _, e⟩ | ⟨_, _, _, e⟩ |
    ⟨_, _, _, e⟩⟩ <;> rw [e] <;> exact ⟨rfl, rfl⟩

/-! ### The run (O60) -/

/-- Whatever the drive loop issues ends the command or advances it. -/
theorem State.Inv.exec_loopNext_advances {s' : State} {i : Instr} (h : s.Inv)
    (hb : s.status = .busy) (hl : s.loopNext = .ok (some (i, s'))) (ht : exec i s' = .next t) :
    t.status ≠ .busy ∨ s.Advances t := by
  rcases State.loopNext_cases hl with ⟨htop, rfl, hop⟩ | ⟨hloc, rfl, rfl⟩ | ⟨hloc, rfl, rfl⟩ |
    ⟨_, x, rest, hsrc, rfl, rfl⟩
  · rcases hop with ⟨_, rfl⟩ | ⟨hq, hrw, b, _, rfl⟩ | ⟨_, _, _, rfl⟩ | ⟨_, _, _, rfl⟩
    · exact .inl (by simp [execDeliver_stops ht])
    · exact State.Decoding.exec_decodeByte_advances ⟨h, hb, htop, hq, hrw⟩ ht
    · exact .inl (by simp [execSurface_stops ht])
    · exact .inr (execStallchk_advances htop ht)
  · exact execCapchk_advances hloc ht
  · exact execFill_advances h.params hloc ht
  · have e := exec_decodeResponse { s with srcq := rest } x h.index.2
    cases e.symm.trans ht
    obtain ⟨hhost, hleft⟩ := State.answered_ports { s with srcq := rest } x
    exact .inr ⟨hhost, .inl (by simp [hleft, hsrc])⟩

/-- The one place where the drive loop has no operation. -/
theorem State.loopNext_none (h : s.loopNext = .ok none) : s.loc = .srcWait ∧ s.srcq = [] := by
  unfold State.loopNext at h
  split at h
  · split at h <;> cases h
  · cases h
  · cases h
  · rename_i hl
    split at h
    · exact ⟨hl, by assumption⟩
    · cases h

/-- A running READ_NEXT that does not wait for an answer takes a step that ends it or advances it. -/
theorem State.Inv.step_advances (h : s.Inv) (hb : s.status = .busy) (ho : s.Orderly)
    (hw : ¬ (s.loc = .srcWait ∧ s.srcq = [])) :
    ∃ t, step s = .next t ∧ (t.status ≠ .busy ∨ s.Advances t) := by
  obtain ⟨t, ht⟩ := step_answers h.index
  refine ⟨t, ht, ?_⟩
  rcases step_cases ht with ⟨hn, _⟩ | ⟨i, s', hn, he⟩ <;> rw [State.nextOp_loop hb ho] at hn
  · exact absurd (State.loopNext_none hn) hw
  · exact h.exec_loopNext_advances hb hn he

/-- By descent on the answers to come, and between two of them on the operations before the next
SrcRead. -/
theorem State.Inv.ends_or_waits {s : State} (h : s.Inv) (hb : s.status = .busy) (ho : s.Orderly) :
    ∃ (k : Nat) (t : State), s.After k t ∧
      (t.status ≠ .busy ∨ (t.loc = .srcWait ∧ t.srcq = [])) := by
  by_cases hw : s.loc = .srcWait ∧ s.srcq = []
  · exact ⟨0, s, s.after_zero, .inr hw⟩
  · obtain ⟨t, ht, hway⟩ := h.step_advances hb ho hw
    by_cases htb : t.status = .busy
    · have hadv : s.Advances t := hway.resolve_left (not_not_intro htb)
      have hto : t.Orderly := by rwa [State.Orderly, hadv.hostq]
      obtain ⟨k, u, hrun, hend⟩ := (h.of_step ht).ends_or_waits htb hto
      exact ⟨k + 1, u, (State.after_succ_iff ht).2 hrun, hend⟩
    · exact ⟨1, t, State.after_one ht, .inl htb⟩
termination_by (s.srcq.length, s.opsToRead)
decreasing_by
  rcases hadv.nearer with hless | ⟨hsame, hless⟩
  · exact .left _ _ hless
  · rw [hsame]
    exact .right _ hless

/-- Settles O60: no step of a running READ_NEXT that does not wait leaves it where it was. -/
theorem readNextEndsOrWaitsForTheSource : Obligations.ReadNextEndsOrWaitsForTheSource :=
  fun _ h hb ho => h.ends_or_waits hb ho

end Sys2Proof.Machine
end

section
/-! PROOFS. The tests of the drive loop in their order (O7, O8), and what its micro-operations do
(O26 to O31). -/

namespace Sys2Proof.Machine

variable {s : State}

/-! ### The order of the tests (R141) -/

/-- L2: an unread byte that RBUF has selects the operation (R145, R76). -/
theorem State.Parsing.step_byte {b : Byte} (h : s.Parsing) (hrw : s.r < s.w)
    (hb : s.readByte s.r = .ok b) : step s = exec (decodeByte s.phase b) s := by
  obtain ⟨hbusy, hl, hq, ho⟩ := h
  exact step_of_loopTop hbusy ho hl (by simp [State.loopTop, State.qNonempty, hq, hrw, hb])

/-- L3. -/
theorem step_surface (hb : s.status = .busy) (ho : s.Orderly) (hl : s.loc = .top)
    (hq : s.msgq = []) (hrw : s.w ≤ s.r) (he : s.errk ≠ none) : step s = exec .surface s :=
  step_of_loopTop hb ho hl
    (by simp [State.loopTop, State.qNonempty, State.errPending, hq, hrw.not_gt,
      Option.isSome_iff_ne_none.2 he])

/-- Settles O7: the byte below `CAP` is fetched, and L1 passes. -/
theorem stepRunsTheByteAtTheReadPosition : Obligations.StepRunsTheByteAtTheReadPosition :=
  fun _ _ hp hrw hcap hb => hp.step_byte hrw (State.readByte_ok.2 ⟨hcap, hb⟩)

/-- Settles O8, place by place. -/
theorem driveLoopOrder : Obligations.DriveLoopOrder := fun _ hb ho =>
  ⟨step_deliver hb ho, step_surface hb ho, step_stallchk hb ho, step_capchk hb ho,
    step_fill hb ho⟩

/-! ### COMPACT and DELIVER (R143, R144) -/

theorem State.compacted_byteAt_moved {a : Nat} (h : a < s.w - s.r) :
    s.compacted.byteAt a = s.byteAt (s.r + a) := (s.compacted_byteAt a).trans (if_pos h)

theorem State.compacted_byteAt_kept {a : Nat} (h : s.w - s.r ≤ a) :
    s.compacted.byteAt a = s.byteAt a := (s.compacted_byteAt a).trans (if_neg h.not_gt)

/-- Settles O26: the loop of COMPACT, and no bit of `W - R` is lost. -/
theorem compactMovesTheUnreadBytes : Obligations.CompactMovesTheUnreadBytes := fun s _ hw =>
  ⟨s.compacted.rbuf, congrArg Host.Outcome.next (State.compacted_eq hw),
    fun _ => State.compacted_byteAt_moved, fun _ => State.compacted_byteAt_kept⟩

theorem execDeliver_of_cons {head : Message} {rest : List Message} (h : s.msgq = head :: rest) :
    execDeliver s = .next ({ s with msgq := rest }.compacted.respond (.message head)) := by
  rw [execDeliver, h]

/-- Settles O27: the compaction takes no notice of the queue. -/
theorem deliverReturnsTheHeadAndCompacts : Obligations.DeliverReturnsTheHeadAndCompacts := by
  intro s head rest hq _ hw
  have hcompact := State.compacted_eq (s := { s with msgq := rest }) hw
  refine ⟨s.compacted.rbuf, ?_, fun _ => State.compacted_byteAt_moved,
    fun _ => State.compacted_byteAt_kept⟩
  rw [exec, execDeliver_of_cons hq, hcompact]
  rfl

/-! ### SURFACE (R146) -/

theorem execSurface_of_some {k : ErrKind} (h : s.errk = some k) :
    execSurface s =
      .next ({ s with errk := none }.raise (s.surfacedKind k) (s.surfacedCode k)) := by
  rw [execSurface, h]

/-- `mid_frame` (R36, R205), with the count as a number. -/
theorem State.midFrame_iff : s.midFrame = true ↔ s.phase ≠ .awaitLen ∨ 0 < s.cnt.toNat := by
  have hcnt : s.cnt ≠ 0 ↔ 0 < s.cnt.toNat :=
    (not_congr (cnt_eq_zero_iff s.cnt)).trans Nat.pos_iff_ne_zero.symm
  simp only [State.midFrame, State.inVarint, Bool.or_eq_true, decide_eq_true_eq, hcnt]

/-- A truncation is never reported as a clean end (R205). -/
theorem State.surfacedKind_of_midFrame (h : s.phase ≠ .awaitLen ∨ 0 < s.cnt.toNat) :
    s.surfacedKind .endOfStream = .unexpectedEndOfStream :=
  if_pos ⟨rfl, State.midFrame_iff.2 h⟩

theorem State.surfacedKind_of_boundary (hphase : s.phase = .awaitLen) (hcnt : s.cnt.toNat = 0) :
    s.surfacedKind .endOfStream = .endOfStream := by
  refine if_neg fun ⟨_, hmid⟩ => ?_
  rcases State.midFrame_iff.1 hmid with h | h
  · exact h hphase
  · omega

theorem State.surfacedKind_of_ne {k : ErrKind} (h : k ≠ .endOfStream) : s.surfacedKind k = k :=
  if_neg fun hk => h hk.1

/-- Settles O28: the kind and the code are those of R146. -/
theorem surfaceReportsTheSlotError : Obligations.SurfaceReportsTheSlotError := by
  intro s k hk
  refine ⟨s.surfacedKind k, s.surfacedCode k, execSurface_of_some hk, ?_, ?_,
    State.surfacedKind_of_ne, fun h => if_pos h, fun h => if_neg h⟩
  · rintro rfl
    exact State.surfacedKind_of_midFrame
  · rintro rfl
    exact State.surfacedKind_of_boundary

/-! ### STALLCHK, CAPCHK and the operations the loop never issues (R147, R148) -/

/-- Settles O29: the operation is defined so (log 11). -/
theorem stallGuardNeverRaises : Obligations.StallGuardNeverRaises := fun _ => rfl

/-- Settles O30: the payload and its room decide, and the two ways exclude each other. -/
theorem capacityCheckRaisesShortBuffer : Obligations.CapacityCheckRaisesShortBuffer := by
  intro s
  rcases execCapchk_cases s with ⟨hphase, hbig, _, e⟩ | ⟨hfits, _, e⟩
  · exact ⟨fun _ _ => e, fun h => (h.elim (· hphase) hbig.not_ge).elim⟩
  · exact ⟨fun hphase hbig => (hfits.elim (· hphase) hbig.not_ge).elim, fun _ => e⟩

theorem execDeliver_of_nil (h : s.msgq = []) : execDeliver s = .fault .emptyQueue := by
  rw [execDeliver, h]

theorem execSurface_of_none (h : s.errk = none) : execSurface s = .fault .emptySlot := by
  rw [execSurface, h]

/-- Settles O31: there is nothing to pop, and no kind to raise (log 18). -/
theorem nothingToDeliverOrSurfaceStops : Obligations.NothingToDeliverOrSurfaceStops :=
  fun _ => ⟨execDeliver_of_nil, execSurface_of_none⟩

end Sys2Proof.Machine
end

section
/-! PROOFS. The host's commands by status and latch (O41 to O44), and the responses that a step gives
(O54). -/

namespace Sys2Proof.Machine

variable {s t : State}

/-! ### READ_NEXT and RESET (R140, R142, R153) -/

theorem execReadNext_of_dead (hi : s.status = .idle) (hd : s.dead = true) :
    execReadNext s = .next (s.respond (.error .endOfStream none)) := by
  simp [execReadNext, hi, hd]

theorem execReadNext_of_live (hi : s.status = .idle) (hd : s.dead = false) :
    execReadNext s = .next { s with status := .busy, loc := .top } := by
  simp [execReadNext, hi, hd]

theorem execReadNext_refused (h : s.status ≠ .idle) : execReadNext s = .next s := by
  unfold execReadNext
  split
  · exact absurd (by assumption) h
  · rfl
  · rfl

theorem execReset_accepted (h : s.status ≠ .busy) : execReset s = .next s.cleared := by
  unfold execReset
  split
  · rfl
  · exact absurd (by assumption) h
  · rfl

theorem execReset_refused (h : s.status = .busy) : execReset s = .next s := by
  rw [execReset, h]

/-- In IDLE a response changes the place in the loop and the list of responses only. -/
theorem State.respond_of_idle (hi : s.status = .idle) (x : Response) :
    s.respond x = { s with loc := .top, resps := s.resps ++ [x] } := by
  rw [State.respond, hi]

/-- Settles O41: the latch decides. -/
theorem readNextStartsTheLoop : Obligations.ReadNextStartsTheLoop := fun _ hi =>
  ⟨execReadNext_of_live hi, fun hd =>
    (execReadNext_of_dead hi hd).trans (congrArg Host.Outcome.next (State.respond_of_idle hi _))⟩

/-- Settles O42: the reset values are those of `State.reset`. -/
theorem resetCommandRestoresTheResetValues : Obligations.ResetCommandRestoresTheResetValues :=
  fun s h => ⟨s.cleared.rbuf, s.cleared.pcause, execReset_accepted h⟩

/-- Settles O43: READ_NEXT is accepted in IDLE only, RESET outside BUSY. -/
theorem unacceptedCommandsHaveNoEffect : Obligations.UnacceptedCommandsHaveNoEffect := fun _ =>
  ⟨fun hb => ⟨execReadNext_refused (by simp [hb]), execReset_refused hb⟩,
    fun hf => execReadNext_refused (by simp [hf])⟩

/-! ### A DEAD block (R142, R249) -/

theorem step_readNext_of_dead {ev : HostEvent} {rest : List HostEvent} (hi : s.status = .idle)
    (hl : s.loc = .top) (hd : s.dead = true) (hq : s.hostq = ev :: rest) (hev : ev.cmd = 0) :
    step s = .next { s with
      hostq := rest, resps := s.resps ++ [.error .endOfStream none] } := by
  have hread : decodeCommand ev.cmd = .readNext := if_pos hev
  have hanswer := execReadNext_of_dead (s := { s with hostq := rest }) hi hd
  rw [State.respond_of_idle (by exact hi), ← hl] at hanswer
  rw [step_command hq (.inl (by simp [hi])), hread]
  exact hanswer

/-- Settles O44, by induction on the commands: after each the block is IDLE and DEAD as before. -/
theorem deadBlockAnswersEndOfStreamForEver : Obligations.DeadBlockAnswersEndOfStreamForEver := by
  intro s evs hi hl hd hread hq
  induction evs generalizing s with
  | nil =>
    rw [List.length_nil, List.replicate_zero, List.append_nil, ← hq]
    exact s.after_zero
  | cons ev rest ih =>
    obtain ⟨hev, hrest⟩ := List.forall_mem_cons.1 hread
    have hothers := ih { s with
      hostq := rest, resps := s.resps ++ [.error .endOfStream none] } hi hl hd hrest rfl
    rw [List.append_assoc, List.singleton_append, ← List.replicate_succ] at hothers
    exact (State.after_succ_iff (step_readNext_of_dead hi hl hd hq hev)).2 hothers

/-! ### The responses of one operation (R140, R215) -/

/-- What the host gets from `s` to `t`: nothing, a message with the block IDLE, or an error with the
block IDLE and DEAD. -/
inductive State.Responds (s t : State) : Prop
  | silent (resps : t.resps = s.resps)
  | message (m : Message) (resps : t.resps = s.resps ++ [.message m]) (idle : t.status = .idle)
  | error (k : ErrKind) (e : Option ErrCode) (resps : t.resps = s.resps ++ [.error k e])
      (idle : t.status = .idle) (dead : t.dead = true)

theorem State.responds_vbC (s : State) (g : Group) : s.Responds (s.vbC g) := by
  rcases s.vbC_cases g with ⟨_, e⟩ | ⟨_, e⟩ <;> rw [e]
  · exact .error _ _ rfl rfl rfl
  · exact .silent rfl

@[simp] theorem State.emitIfComplete_resps (s : State) : s.emitIfComplete.resps = s.resps := by
  rcases s.emitIfComplete_cases with ⟨_, e⟩ | ⟨_, e⟩ <;> simp [e]

@[simp] theorem State.rebased_resps (s : State) : s.rebased.resps = s.resps := by
  rw [State.rebased_eq]

@[simp] theorem State.answered_resps (s : State) (x : SrcResp) :
    (s.answered x).resps = s.resps := by
  rcases s.answered_cases x with ⟨_, e⟩ | ⟨_, ⟨_, e⟩ | ⟨_, e⟩ | ⟨_, _, e⟩ | ⟨_, _, _, e⟩ |
    ⟨_, _, _, e⟩⟩ <;> rw [e] <;> rfl

theorem execHdrT_responds {g : Group} (h : execHdrT g s = .next t) : s.Responds t := by
  rcases execHdrT_ways g s with e | ⟨len, e | e⟩ <;> cases e.symm.trans h
  · exact .error _ _ rfl rfl rfl
  · exact .error _ _ rfl rfl rfl
  · exact .silent (State.emitIfComplete_resps _)

theorem execPayB_responds {d : Byte} (h : execPayB d s = .next t) : s.Responds t := by
  rcases execPayB_cases d s with ⟨_, _, e⟩ | ⟨_, _, _, _, _, ⟨_, e⟩ | ⟨_, e⟩⟩ <;>
    cases e.symm.trans h <;> exact .silent rfl

theorem execDeliver_responds (h : execDeliver s = .next t) : s.Responds t := by
  unfold execDeliver at h
  split at h <;> cases h
  exact .message _ rfl rfl

theorem execSurface_responds (h : execSurface s = .next t) : s.Responds t := by
  unfold execSurface at h
  split at h <;> cases h
  exact .error _ _ rfl rfl rfl

theorem execCapchk_responds (h : execCapchk s = .next t) : s.Responds t := by
  rcases execCapchk_cases s with ⟨_, _, _, e⟩ | ⟨_, _, e⟩ <;> cases e.symm.trans h
  · exact .error _ _ rfl rfl rfl
  · exact .silent rfl

theorem execFill_responds (h : execFill s = .next t) : s.Responds t := by
  rcases execFill_cases s with ⟨_, e⟩ | ⟨_, _, e⟩ | ⟨_, _, e⟩ <;> cases e.symm.trans h <;>
    exact .silent s.rebased_resps

/-- READ_NEXT responds itself only where the latch is set already (R142). -/
theorem execReadNext_responds (h : execReadNext s = .next t) : s.Responds t := by
  by_cases hi : s.status = .idle
  · cases hd : s.dead with
    | false =>
      cases (execReadNext_of_live hi hd).symm.trans h
      exact .silent rfl
    | true =>
      cases (execReadNext_of_dead hi hd).symm.trans h
      exact .error _ _ rfl rfl hd
  · cases (execReadNext_refused hi).symm.trans h
    exact .silent rfl

theorem execReset_responds (h : execReset s = .next t) : s.Responds t := by
  rcases execReset_cases s with e | e <;> cases e.symm.trans h <;> exact .silent rfl

/-- Every operation, whatever the state. -/
theorem exec_responds {i : Instr} (h : exec i s = .next t) : s.Responds t := by
  cases i with
  | lenC g => exact Host.Outcome.next.inj h ▸ s.responds_vbC g
  | lenT g => cases h; exact .silent rfl
  | hdrC g => exact Host.Outcome.next.inj h ▸ s.responds_vbC g
  | hdrT g => exact execHdrT_responds h
  | payB d => exact execPayB_responds h
  | vreset => cases h; exact .silent rfl
  | emit => cases h; exact .silent rfl
  | deliver => exact execDeliver_responds h
  | compact => cases h; exact .silent rfl
  | surface => exact execSurface_responds h
  | stallchk => cases h; exact .silent rfl
  | capchk => exact execCapchk_responds h
  | fill => exact execFill_responds h
  | readNext => exact execReadNext_responds h
  | reset => exact execReset_responds h
  | srcData data => cases h; exact .silent (s.answered_resps _)
  | srcEmpty => cases h; exact .silent (s.answered_resps _)
  | srcEof data => cases h; exact .silent (s.answered_resps _)
  | srcErr data e => cases h; exact .silent (s.answered_resps _)
  | srcBad x => cases h; exact .silent rfl

/-! ### The responses of a step (O54) -/

/-- Taking a command or an answer from its port gives the host nothing. -/
theorem State.nextOp_resps {s' : State} {i : Instr} (h : s.nextOp = .ok (some (i, s'))) :
    s'.resps = s.resps := by
  rcases State.nextOp_cases h with ⟨_, _, _, _, _, rfl⟩ | ⟨_, hl⟩
  · rfl
  · rcases State.loopNext_cases hl with ⟨_, rfl, _⟩ | ⟨_, rfl, _⟩ | ⟨_, rfl, _⟩ |
      ⟨_, _, _, _, _, rfl⟩ <;> rfl

theorem step_responds (h : step s = .next t) : s.Responds t := by
  rcases step_cases h with ⟨_, rfl⟩ | ⟨i, s', hn, he⟩
  · exact .silent rfl
  · have hsame := State.nextOp_resps hn
    cases exec_responds he with
    | silent hr => exact .silent (hr.trans hsame)
    | message m hr hi => exact .message m (hsame ▸ hr) hi
    | error k e hr hi hd => exact .error k e (hsame ▸ hr) hi hd

/-- Settles O54: a step executes one operation, and no operation responds twice. -/
theorem atMostOneResponseAStep : Obligations.AtMostOneResponseAStep := by
  intro s t h
  cases step_responds h with
  | silent hr => exact .inl hr
  | message m hr hi => exact .inr (.inl ⟨m, hr, hi⟩)
  | error k e hr hi hd => exact .inr (.inr ⟨k, e, hr, hi, hd⟩)

end Sys2Proof.Machine
end

section
/-! PROOFS. FILL and the answers of the source (O10, O33 to O40): the re-based buffer, the bytes that
an answer stores, the count of empty answers. -/

namespace Sys2Proof.Machine

variable {s : State}

/-! ### FILL (R170) -/

/-- `F1` with W a number of IDXW bits: its two index registers. -/
theorem State.rebased_eq_of_lt (hw : s.w < 2 ^ s.params.idxw) :
    s.rebased = { s with rbuf := s.rebased.rbuf, r := 0, w := s.w - s.r } :=
  s.rebased_eq.trans (by rw [State.rebased_w hw])

theorem State.rebased_byteAt_moved {a : Nat} (h : a < s.w - s.r) :
    Memory.byteAt s.rebased.rbuf s.resets a = s.byteAt (s.r + a) :=
  (s.rebased_byteAt a).trans (if_pos h)

theorem State.rebased_byteAt_kept {a : Nat} (h : s.w - s.r ≤ a) :
    Memory.byteAt s.rebased.rbuf s.resets a = s.byteAt a :=
  (s.rebased_byteAt a).trans (if_neg h.not_gt)

section
variable (hw : s.w < 2 ^ s.params.idxw)
include hw

theorem execFill_of_full (h : s.params.cap ≤ s.w - s.r) : execFill s = .next { s with
    rbuf := s.rebased.rbuf, r := 0, w := s.w - s.r, status := .fault, pcause := .full,
    loc := .top } := by
  rw [← State.rebased_w hw] at h
  rcases execFill_cases s with ⟨_, e⟩ | ⟨hroom, _⟩ | ⟨hroom, _⟩
  · rwa [State.rebased_eq_of_lt hw] at e
  · omega
  · omega

theorem execFill_of_room (h : s.w - s.r < s.params.cap) (hreads : 1 ≤ s.params.maxEmptyReads) :
    execFill s = .next { s with
      rbuf := s.rebased.rbuf, r := 0, w := s.w - s.r, empties := 0, loc := .srcWait } := by
  rw [← State.rebased_w hw] at h
  rcases execFill_cases s with ⟨hfull, _⟩ | ⟨_, _, e⟩ | ⟨_, hnone, _⟩
  · omega
  · rwa [State.rebased_eq_of_lt hw] at e
  · omega

theorem execFill_of_no_reads (h : s.w - s.r < s.params.cap) (hnone : s.params.maxEmptyReads = 0) :
    execFill s = .next { s with
      rbuf := s.rebased.rbuf, r := 0, w := s.w - s.r, empties := 0, errk := some .noProgress,
      loc := .top } := by
  rw [← State.rebased_w hw] at h
  rcases execFill_cases s with ⟨hfull, _⟩ | ⟨_, hreads, _⟩ | ⟨_, _, e⟩
  · omega
  · omega
  · rwa [State.rebased_eq_of_lt hw] at e

end

/-- Settles O33: the re-based buffer has room, and a read is allowed. -/
theorem fillCompactsAndReads : Obligations.FillCompactsAndReads := fun s _ hw hroom hreads =>
  ⟨s.rebased.rbuf, execFill_of_room hw hroom hreads, fun _ => State.rebased_byteAt_moved,
    fun _ => State.rebased_byteAt_kept⟩

/-- Settles O34: the re-based buffer is full, or no read is allowed. -/
theorem fillWithoutRoomOrReads : Obligations.FillWithoutRoomOrReads := fun s _ hw =>
  ⟨s.rebased.rbuf, execFill_of_full hw, execFill_of_no_reads hw,
    fun _ => State.rebased_byteAt_moved, fun _ => State.rebased_byteAt_kept⟩

/-! ### Answers within the contract (R173 to R176) -/

/-- An answer within the contract: its bytes are stored at W, and the turn of the read loop goes on
behind them. -/
theorem State.answered_stored {x : SrcResp} (hst : x.st ≠ 3)
    (hfit : s.w + x.data.length ≤ s.params.cap) :
    s.answered x = State.turned x { s with
      rbuf := Memory.write s.rbuf s.w x.data, w := s.w + x.data.length } := by
  rw [State.answered_inside (not_or.2 ⟨hst, hfit.not_gt⟩), State.receive_eq hfit]

/-- Where the bytes of an answer stand, and that no other byte has changed. -/
theorem State.stored_bytes (s : State) (data : List Byte) :
    (∀ k, ∀ h : k < data.length,
      Memory.byteAt (Memory.write s.rbuf s.w data) s.resets (s.w + k) = data[k]) ∧
    (∀ a, (a < s.w ∨ s.w + data.length ≤ a) →
      Memory.byteAt (Memory.write s.rbuf s.w data) s.resets a = s.byteAt a) :=
  ⟨fun k => Memory.byteAt_write_inside s.rbuf s.resets s.w k data,
    fun a => Memory.byteAt_write_outside s.rbuf s.resets s.w a data⟩

/-- An end of stream with bytes that fit: they are stored before the slot takes it (R175). -/
theorem State.answered_eof {data : List Byte} (hfit : s.w + data.length ≤ s.params.cap) :
    s.answered ⟨data, 1, 0⟩ = { s with
      rbuf := Memory.write s.rbuf s.w data, w := s.w + data.length, errk := some .endOfStream,
      loc := .top } :=
  State.answered_stored (x := ⟨data, 1, 0⟩) (by decide : (1 : BitVec 2) ≠ 3) hfit

/-- A code of `EW` bits is stored whole (R29). -/
theorem State.errCode_of_lt {e : ErrCode} (h : e < 2 ^ s.params.ew) : s.errCode e = e :=
  Nat.mod_eq_of_lt h

/-- An error with bytes that fit: they are stored before the slot takes it (R176). -/
theorem State.answered_err {data : List Byte} {e : ErrCode}
    (hfit : s.w + data.length ≤ s.params.cap) :
    s.answered ⟨data, 2, e⟩ = { s with
      rbuf := Memory.write s.rbuf s.w data, w := s.w + data.length, errk := some .sourceError,
      erre := s.errCode e, loc := .top } :=
  State.answered_stored (x := ⟨data, 2, e⟩) (by decide : (2 : BitVec 2) ≠ 3) hfit

/-- Settles O35: with a byte at least, the answer is data. -/
theorem sourceDataIsStoredAtW : Obligations.SourceDataIsStoredAtW := fun s data hpos hfit =>
  ⟨_, congrArg Host.Outcome.next (State.answered_data (List.length_pos_iff.1 hpos) hfit),
    s.stored_bytes data⟩

/-- Settles O37: the bytes are stored, then the slot takes the end of stream. -/
theorem sourceEofStoresBytesThenTheEnd : Obligations.SourceEofStoresBytesThenTheEnd :=
  fun s data hfit =>
    ⟨_, congrArg Host.Outcome.next (State.answered_eof hfit), s.stored_bytes data⟩

/-- Settles O38: the bytes are stored, then the slot takes the error, and no bit of its code is
lost. -/
theorem sourceErrorTakesTheSlot : Obligations.SourceErrorTakesTheSlot := by
  intro s data e hfit hcode
  have hanswer := State.answered_err (e := e) hfit
  rw [State.errCode_of_lt hcode] at hanswer
  exact ⟨_, congrArg Host.Outcome.next hanswer, s.stored_bytes data⟩

/-! ### Empty answers (R174, R178) -/

/-- An answer with neither a byte nor an error is counted, and the test of `F3` follows. -/
theorem State.answered_empty {x : SrcResp} (hdata : x.data = []) (hst : x.st = 0)
    (hw : s.w ≤ s.params.cap) :
    s.answered x = { s with empties := s.emptyCount (s.empties + 1) }.readOrGiveUp := by
  have hn : ¬ 0 < x.n := by simp [SrcResp.n, hdata]
  rw [State.answered_stored (by simp [hst]) (by simpa [hdata]), hdata]
  simp only [State.turned, hst, if_neg hn]
  rfl

/-- Settles O36: below the bound another SrcRead is issued, at the bound FILL gives up. -/
theorem sourceEmptyCountsUpToTheBound : Obligations.SourceEmptyCountsUpToTheBound := by
  intro s hw
  have hanswer := State.answered_empty (x := { data := [], st := 0, e := 0 }) rfl rfl hw
  refine ⟨s.emptyCount (s.empties + 1), rfl, fun hmore => ?_, fun hlast => ?_⟩
  · rw [exec, execSrcEmpty, hanswer]
    exact congrArg Host.Outcome.next (if_pos hmore)
  · rw [exec, execSrcEmpty, hanswer]
    exact congrArg Host.Outcome.next (if_neg hlast.not_gt)

/-! ### The step of an outstanding SrcRead (R171) -/

/-- Settles O10: no command comes between the block and the answer. -/
theorem stepRunsTheSourceResponse : Obligations.StepRunsTheSourceResponse :=
  fun _ _ _ hb hl ho hx => step_answer hb ho hl hx

/-- Settles O39: outside the contract the decoder selects SRC.BAD, which is defined to panic. -/
theorem responseOutsideTheContractPanics : Obligations.ResponseOutsideTheContractPanics := by
  refine fun s x => ⟨rfl, fun rest hb hl ho hx hbad => ?_⟩
  have hout : x.st = 3 ∨ s.room < x.n := hbad.imp_left fun h => BitVec.eq_of_toNat_eq h
  rw [step_answer hb ho hl hx, decodeResponse_bad hout]
  rfl

section
variable {x : SrcResp} {rest : List SrcResp} (hb : s.status = .busy) (ho : s.Orderly)
  (hl : s.loc = .srcWait) (hw : s.w ≤ s.params.cap) (hx : s.srcq = x :: rest)
  (hdata : x.data = []) (hst : x.st = 0)
include hb ho hl hw hx hdata hst

/-- An empty answer that the bound allows is counted, and no bit of the count is lost (R31). -/
theorem step_empty (hbound : s.empties + 1 ≤ s.params.maxEmptyReads) :
    step s = .next { s with srcq := rest, empties := s.empties + 1 }.readOrGiveUp := by
  have hcount : s.emptyCount (s.empties + 1) = s.empties + 1 := State.emptyCount_of_le hbound
  have hanswer := State.answered_empty (s := { s with srcq := rest }) hdata hst hw
  rw [step_answer hb ho hl hx, ← hcount]
  exact (exec_decodeResponse { s with srcq := rest } x hw).trans
    (congrArg Host.Outcome.next hanswer)

theorem step_empty_of_more (hmore : s.empties + 1 < s.params.maxEmptyReads) :
    step s = .next { s with srcq := rest, empties := s.empties + 1, loc := .srcWait } :=
  (step_empty hb ho hl hw hx hdata hst hmore.le).trans
    (congrArg Host.Outcome.next (if_pos hmore))

theorem step_empty_of_last (hlast : s.empties + 1 = s.params.maxEmptyReads) :
    step s = .next { s with
      srcq := rest, empties := s.params.maxEmptyReads, errk := some .noProgress, loc := .top } := by
  rw [step_empty hb ho hl hw hx hdata hst hlast.le, ← hlast]
  exact congrArg Host.Outcome.next (if_neg hlast.not_lt)

end

/-- Settles O40, by induction on the answers: all but the last lead to another SrcRead. -/
theorem emptyReadsEndInNoProgress : Obligations.EmptyReadsEndInNoProgress := by
  intro s xs rest hb hl ho hw hempty hne hbound hsrc
  induction xs generalizing s with
  | nil => exact absurd rfl hne
  | cons x xs ih =>
    obtain ⟨⟨hdata, hst⟩, hothers⟩ := List.forall_mem_cons.1 hempty
    rw [List.length_cons] at hbound
    by_cases hlast : xs = []
    · subst hlast
      exact State.after_one (step_empty_of_last hb ho hl hw hsrc hdata hst hbound)
    · have hpos := List.length_pos_iff.2 hlast
      refine (State.after_succ_iff (step_empty_of_more hb ho hl hw hsrc hdata hst (by omega))).2 ?_
      exact ih { s with srcq := xs ++ rest, empties := s.empties + 1, loc := .srcWait } hb rfl ho hw
        hothers hlast (by simp only; omega) rfl

end Sys2Proof.Machine
end

section
/-! PROOFS. A source within its contract and legal parameters open neither of the two ways into FAULT
(O56): the full buffer of FILL and the answer outside the contract. -/

namespace Sys2Proof.Machine

variable {s t : State}

/-- From `s` to `t` no panic happens: in FAULT, the block was there before, with the same cause
(R218). -/
def State.NoPanic (s t : State) : Prop :=
  t.status = .fault → s.status = .fault ∧ t.pcause = s.pcause

theorem State.NoPanic.of_eq (hs : t.status = s.status) (hc : t.pcause = s.pcause) : s.NoPanic t :=
  fun h => ⟨hs.symm.trans h, hc⟩

theorem State.NoPanic.of_idle (h : t.status = .idle) : s.NoPanic t :=
  fun hf => nomatch h.symm.trans hf

theorem State.NoPanic.of_busy (h : t.status = .busy) : s.NoPanic t :=
  fun hf => nomatch h.symm.trans hf

/-! ### The operations that never panic -/

theorem State.noPanic_vbC (s : State) (g : Group) : s.NoPanic (s.vbC g) := by
  rcases s.vbC_cases g with ⟨_, e⟩ | ⟨_, e⟩ <;> rw [e]
  · exact .of_idle rfl
  · exact .of_eq rfl rfl

@[simp] theorem State.emitIfComplete_status (s : State) : s.emitIfComplete.status = s.status := by
  rcases s.emitIfComplete_cases with ⟨_, e⟩ | ⟨_, e⟩ <;> simp [e]

@[simp] theorem State.emitIfComplete_pcause (s : State) : s.emitIfComplete.pcause = s.pcause := by
  rcases s.emitIfComplete_cases with ⟨_, e⟩ | ⟨_, e⟩ <;> simp [e]

theorem execHdrT_noPanic {g : Group} (h : execHdrT g s = .next t) : s.NoPanic t := by
  rcases execHdrT_ways g s with e | ⟨len, e | e⟩ <;> cases e.symm.trans h
  · exact .of_idle rfl
  · exact .of_idle rfl
  · exact .of_eq (State.emitIfComplete_status _) (State.emitIfComplete_pcause _)

theorem execPayB_noPanic {d : Byte} (h : execPayB d s = .next t) : s.NoPanic t := by
  rcases execPayB_cases d s with ⟨_, _, e⟩ | ⟨_, _, _, _, _, ⟨_, e⟩ | ⟨_, e⟩⟩ <;>
    cases e.symm.trans h <;> exact .of_eq rfl rfl

/-- Whichever operation PHASE and bit 7 select (R76). -/
theorem exec_decodeByte_noPanic {p : Phase} {b : Byte} (h : exec (decodeByte p b) s = .next t) :
    s.NoPanic t := by
  rcases decodeByte_cases p b with ⟨_, g, e | e⟩ | ⟨_, g, e | e⟩ | ⟨_, e⟩ <;> rw [e] at h
  · cases h
    exact s.noPanic_vbC g
  · cases h
    exact .of_eq rfl rfl
  · cases h
    exact s.noPanic_vbC g
  · exact execHdrT_noPanic h
  · exact execPayB_noPanic h

theorem execCapchk_noPanic (h : execCapchk s = .next t) : s.NoPanic t := by
  rcases execCapchk_cases s with ⟨_, _, _, e⟩ | ⟨_, _, e⟩ <;> cases e.symm.trans h
  · exact .of_idle rfl
  · exact .of_eq rfl rfl

theorem exec_decodeCommand_noPanic {c : BitVec 1} (h : exec (decodeCommand c) s = .next t) :
    s.NoPanic t := by
  unfold decodeCommand at h
  split at h
  · rcases execReadNext_cases s with e | e | e <;> cases e.symm.trans h
    · exact .of_idle rfl
    · exact .of_busy rfl
    · exact .of_eq rfl rfl
  · rcases execReset_cases s with e | e <;> cases e.symm.trans h
    · exact .of_idle rfl
    · exact .of_eq rfl rfl

/-! ### The two that can -/

/-- With every byte taken the re-based buffer is empty, and legal parameters give it room (R180,
R208). -/
theorem execFill_noPanic (hp : s.params.Legal) (hrw : s.r = s.w) (hw : s.w ≤ s.params.cap)
    (h : execFill s = .next t) : s.NoPanic t := by
  cases (execFill_of_drained hp hrw hw).symm.trans h
  exact .of_eq rfl rfl

/-- An answer within the contract (R172, R209). -/
theorem State.noPanic_answered {x : SrcResp} (hst : x.st ≠ 3) (hfit : s.w + x.n ≤ s.params.cap) :
    s.NoPanic (s.answered x) := by
  rcases s.answered_cases x with ⟨hout, _⟩ | ⟨_, ⟨_, e⟩ | ⟨_, e⟩ | ⟨_, _, e⟩ | ⟨_, _, _, e⟩ |
    ⟨_, _, _, e⟩⟩
  · exact absurd hout (not_or.2 ⟨hst, hfit.not_gt⟩)
  all_goals
    rw [e]
    exact .of_eq rfl rfl

/-! ### The step (O56) -/

/-- What the invariants say at L6 and at an outstanding SrcRead: every byte is taken, and the room
offered is the whole buffer (R180). -/
theorem State.Inv.exec_loopNext_noPanic {s' : State} {i : Instr} (h : s.Inv)
    (hsrc : ∀ x ∈ s.srcq, InContract x s.params.cap) (hl : s.loopNext = .ok (some (i, s')))
    (ht : exec i s' = .next t) : s.NoPanic t := by
  obtain ⟨_, _, hplace⟩ := h.loop
  rcases State.loopNext_cases hl with ⟨_, rfl, hop⟩ | ⟨_, rfl, rfl⟩ | ⟨hloc, rfl, rfl⟩ |
    ⟨hloc, x, rest, hx, rfl, rfl⟩
  · rcases hop with ⟨_, rfl⟩ | ⟨_, _, b, _, rfl⟩ | ⟨_, _, _, rfl⟩ | ⟨_, _, _, rfl⟩
    · exact .of_idle (execDeliver_stops ht)
    · exact exec_decodeByte_noPanic ht
    · exact .of_idle (execSurface_stops ht)
    · cases ht
      exact .of_eq rfl rfl
  · exact execCapchk_noPanic ht
  · rw [hloc] at hplace
    obtain ⟨hrw, _⟩ := hplace
    exact execFill_noPanic h.params hrw h.index.2 ht
  · rw [hloc] at hplace
    obtain ⟨_, hw, _⟩ := hplace
    obtain ⟨hn, hst⟩ := hsrc x (hx ▸ List.mem_cons_self)
    have hfit : s.w + x.n ≤ s.params.cap := by rwa [hw, Nat.zero_add]
    cases (exec_decodeResponse { s with srcq := rest } x h.index.2).symm.trans ht
    exact State.noPanic_answered (s := { s with srcq := rest }) hst hfit

theorem State.Inv.step_noPanic (h : s.Inv) (hsrc : ∀ x ∈ s.srcq, InContract x s.params.cap)
    (ht : step s = .next t) : s.NoPanic t := by
  rcases step_cases ht with ⟨_, rfl⟩ | ⟨i, s', hn, he⟩
  · exact .of_eq rfl rfl
  · rcases State.nextOp_cases hn with ⟨ev, rest, _, _, rfl, rfl⟩ | ⟨_, hl⟩
    · exact exec_decodeCommand_noPanic (s := { s with hostq := rest }) he
    · exact h.exec_loopNext_noPanic hsrc hl he

/-- Settles O56: FILL and the answers are the only operations that panic, and neither does here. -/
theorem noPanicUnderTheSourceContract : Obligations.NoPanicUnderTheSourceContract :=
  fun _ _ h hsrc ht hf => h.step_noPanic hsrc ht hf

end Sys2Proof.Machine
end

section
/-! PROOFS. A block that waits keeps its state (O11). A live block says EndOfStream by SURFACE alone, at
a frame boundary and with nothing unread (O55). -/

namespace Sys2Proof.Machine

variable {s t : State}

/-! ### Waiting (R221, R262) -/

theorem step_of_nextOp_none (h : s.nextOp = .ok none) : step s = .next s := by
  rw [step, h]

/-- Outside BUSY a command is the only thing that the block could execute. -/
theorem State.nextOp_of_no_command (hb : s.status ≠ .busy) (hq : s.hostq = []) :
    s.nextOp = .ok none := by
  rw [State.nextOp, hq]
  exact if_neg hb

/-- A SrcRead that the source has not answered. -/
theorem State.loopNext_of_no_answer (hl : s.loc = .srcWait) (hx : s.srcq = []) :
    s.loopNext = .ok none := by
  rw [State.loopNext, hl, hx]

/-- Settles O11: in neither case is there a next operation. -/
theorem waitingBlockKeepsItsState : Obligations.WaitingBlockKeepsItsState := fun _ =>
  ⟨fun hb hq => step_of_nextOp_none (State.nextOp_of_no_command hb hq), fun hb ho hl hx =>
    step_of_nextOp_none ((State.nextOp_loop hb ho).trans (State.loopNext_of_no_answer hl hx))⟩

/-! ### A frame boundary (R36, R39) -/

/-- Not `mid_frame`: a live parser has its registers at their reset values. -/
theorem State.Inv.atBoundary (h : s.Inv) (hd : s.dead = false) (hm : ¬ s.midFrame = true) :
    s.AtBoundary := by
  obtain ⟨hphase, hcnt⟩ := not_or.1 (mt State.midFrame_iff.2 hm)
  have hphase : s.phase = .awaitLen := not_not.1 hphase
  have hcnt : s.cnt.toNat = 0 := Nat.eq_zero_of_not_pos hcnt
  obtain ⟨hblen, hhdr, hpmiss, hpay⟩ := (State.frameInv_awaitLen hphase).1 (h.frame hd)
  obtain ⟨_, hfac, hval⟩ := h.acc hd
  rw [hcnt] at hfac hval
  have hval := hval (Nat.zero_le _)
  exact ⟨hphase, BitVec.eq_of_toNat_eq (Nat.lt_one_iff.1 hval), BitVec.eq_of_toNat_eq hfac,
    BitVec.eq_of_toNat_eq hcnt, hblen, hhdr, hpmiss, hpay⟩

/-! ### The operations that do not say EndOfStream -/

/-- From `s` to `t` the host is told EndOfStream. -/
def State.TellsEnd (s t : State) : Prop := ∃ e, t.resps = s.resps ++ [.error .endOfStream e]

theorem State.not_tellsEnd_of_silent (h : t.resps = s.resps) : ¬ s.TellsEnd t := by
  rintro ⟨e, he⟩
  simp [h] at he

theorem State.tellsEnd_iff_of_response {x : Response} (h : t.resps = s.resps ++ [x]) :
    s.TellsEnd t ↔ ∃ e, x = .error .endOfStream e := by
  simp [State.TellsEnd, h]

theorem State.not_tellsEnd_of_error {k : ErrKind} {e : Option ErrCode}
    (h : t.resps = s.resps ++ [.error k e]) (hk : k ≠ .endOfStream) : ¬ s.TellsEnd t := by
  rw [State.tellsEnd_iff_of_response h]
  rintro ⟨_, he⟩
  exact hk (Response.error.inj he).1

theorem State.not_tellsEnd_vbC (s : State) (g : Group) : ¬ s.TellsEnd (s.vbC g) := by
  rcases s.vbC_cases g with ⟨_, e⟩ | ⟨_, e⟩ <;> rw [e]
  · exact State.not_tellsEnd_of_error rfl nofun
  · exact State.not_tellsEnd_of_silent rfl

theorem execHdrT_not_tellsEnd {g : Group} (h : execHdrT g s = .next t) : ¬ s.TellsEnd t := by
  rcases execHdrT_ways g s with e | ⟨len, e | e⟩ <;> cases e.symm.trans h
  · exact State.not_tellsEnd_of_error rfl nofun
  · exact State.not_tellsEnd_of_error rfl nofun
  · exact State.not_tellsEnd_of_silent (State.emitIfComplete_resps _)

theorem execPayB_resps {d : Byte} (h : execPayB d s = .next t) : t.resps = s.resps := by
  rcases execPayB_cases d s with ⟨_, _, e⟩ | ⟨_, _, _, _, _, ⟨_, e⟩ | ⟨_, e⟩⟩ <;>
    cases e.symm.trans h <;> rfl

/-- Whichever operation PHASE and bit 7 select (R76). -/
theorem exec_decodeByte_not_tellsEnd {p : Phase} {b : Byte}
    (h : exec (decodeByte p b) s = .next t) : ¬ s.TellsEnd t := by
  rcases decodeByte_cases p b with ⟨_, g, e | e⟩ | ⟨_, g, e | e⟩ | ⟨_, e⟩ <;> rw [e] at h
  · cases h
    exact s.not_tellsEnd_vbC g
  · cases h
    exact State.not_tellsEnd_of_silent rfl
  · cases h
    exact s.not_tellsEnd_vbC g
  · exact execHdrT_not_tellsEnd h
  · exact State.not_tellsEnd_of_silent (execPayB_resps h)

theorem execDeliver_not_tellsEnd (h : execDeliver s = .next t) : ¬ s.TellsEnd t := by
  cases hq : s.msgq with
  | nil => cases (execDeliver_of_nil hq).symm.trans h
  | cons m rest =>
    cases (execDeliver_of_cons hq).symm.trans h
    rw [State.tellsEnd_iff_of_response rfl]
    exact nofun

theorem execCapchk_not_tellsEnd (h : execCapchk s = .next t) : ¬ s.TellsEnd t := by
  rcases execCapchk_cases s with ⟨_, _, _, e⟩ | ⟨_, _, e⟩ <;> cases e.symm.trans h
  · exact State.not_tellsEnd_of_error rfl nofun
  · exact State.not_tellsEnd_of_silent rfl

theorem execFill_resps (h : execFill s = .next t) : t.resps = s.resps := by
  rcases execFill_cases s with ⟨_, e⟩ | ⟨_, _, e⟩ | ⟨_, _, e⟩ <;> cases e.symm.trans h <;>
    exact s.rebased_resps

/-! ### The two that can (R142, R146) -/

/-- In mid-frame an end of stream is reported as a truncation (R205). -/
theorem State.surfacedKind_ne_endOfStream (hm : s.midFrame = true) (k : ErrKind) :
    s.surfacedKind k ≠ .endOfStream := by
  by_cases hk : k = .endOfStream
  · rw [hk, State.surfacedKind_of_midFrame (State.midFrame_iff.1 hm)]
    exact nofun
  · rwa [State.surfacedKind_of_ne hk]

theorem execSurface_tellsEnd (h : execSurface s = .next t) (he : s.TellsEnd t) :
    ¬ s.midFrame = true := by
  intro hm
  cases hk : s.errk with
  | none => cases (execSurface_of_none hk).symm.trans h
  | some k =>
    cases (execSurface_of_some hk).symm.trans h
    exact State.not_tellsEnd_of_error rfl (State.surfacedKind_ne_endOfStream hm k) he

/-- A command is answered EndOfStream by a DEAD block only. -/
theorem exec_decodeCommand_tellsEnd {c : BitVec 1} (h : exec (decodeCommand c) s = .next t)
    (he : s.TellsEnd t) : s.dead = true := by
  by_contra hd
  refine State.not_tellsEnd_of_silent ?_ he
  unfold decodeCommand at h
  split at h
  · by_cases hi : s.status = .idle
    · cases (execReadNext_of_live hi (Bool.eq_false_iff.2 hd)).symm.trans h
      rfl
    · cases (execReadNext_refused hi).symm.trans h
      rfl
  · rcases execReset_cases s with e | e <;> cases e.symm.trans h <;> rfl

/-! ### The step (O55) -/

/-- In the drive loop SURFACE alone says EndOfStream, and the tests before it have left nothing queued
and nothing unread (R141). -/
theorem State.exec_loopNext_tellsEnd {s' : State} {i : Instr} (hidx : s.IndexInv)
    (hl : s.loopNext = .ok (some (i, s'))) (ht : exec i s' = .next t) (he : s.TellsEnd t) :
    ¬ s.midFrame = true ∧ s.r = s.w ∧ s.msgq = [] := by
  rcases State.loopNext_cases hl with ⟨_, rfl, hop⟩ | ⟨_, rfl, rfl⟩ | ⟨_, rfl, rfl⟩ |
    ⟨_, x, rest, _, rfl, rfl⟩
  · rcases hop with ⟨_, rfl⟩ | ⟨_, _, b, _, rfl⟩ | ⟨hq, hwr, _, rfl⟩ | ⟨_, _, _, rfl⟩
    · exact absurd he (execDeliver_not_tellsEnd ht)
    · exact absurd he (exec_decodeByte_not_tellsEnd ht)
    · exact ⟨execSurface_tellsEnd ht he, hidx.1.antisymm hwr, hq⟩
    · cases ht
      exact absurd he (State.not_tellsEnd_of_silent rfl)
  · exact absurd he (execCapchk_not_tellsEnd ht)
  · exact absurd he (State.not_tellsEnd_of_silent (execFill_resps ht))
  · cases (exec_decodeResponse { s with srcq := rest } x hidx.2).symm.trans ht
    exact absurd he (State.not_tellsEnd_of_silent (State.answered_resps { s with srcq := rest } x))

theorem State.Inv.step_tellsEnd (h : s.Inv) (hd : s.dead = false) (ht : step s = .next t)
    (he : s.TellsEnd t) : s.AtBoundary ∧ s.r = s.w ∧ s.msgq = [] := by
  rcases step_cases ht with ⟨_, rfl⟩ | ⟨i, s', hn, hexec⟩
  · exact absurd he (State.not_tellsEnd_of_silent rfl)
  · rcases State.nextOp_cases hn with ⟨ev, rest, _, _, rfl, rfl⟩ | ⟨_, hl⟩
    · have hdead := exec_decodeCommand_tellsEnd (s := { s with hostq := rest }) hexec he
      exact nomatch hd.symm.trans hdead
    · obtain ⟨hm, hdrained⟩ := State.exec_loopNext_tellsEnd h.index hl hexec he
      exact ⟨h.atBoundary hd hm, hdrained⟩

/-- Settles O55: a live block says EndOfStream by SURFACE at a frame boundary, or not at all. -/
theorem endOfStreamNeverHidesATruncation : Obligations.EndOfStreamNeverHidesATruncation :=
  fun _ _ e h hd ht he => h.step_tellsEnd hd ht ⟨e, he⟩

end Sys2Proof.Machine
end
